-- ==== Sys2Proof/Word.lean ====
section
/-! DEFINITION. The machine's two word types (00_scope rule R6: data 8 bits, addresses 16 bits). -/

namespace Sys2Proof

/-- The addressable unit and the width of A, B, C, D (rules R6, R31). -/
abbrev Byte := BitVec 8

/-- An address, and the width of AB, CD, SK, YG, PS (rules R6, R31). -/
abbrev Word := BitVec 16

end Sys2Proof
end

