-- ==== Sys2Proof/Config.lean ====
section
/-! DEFINITION. What an implementation fixes and the spec leaves OPEN (00_scope rule R7), and the free
values (60_exceptions rule R381). Each is a constant with no body: no proof can see its value, and a
claim is true whatever it is. The parameters that have a default are in Machine/Params.lean. -/

namespace Sys2Proof

/-- `INT_ENTRY`, the address INT transfers to: OPEN (rules R7, R387; log 7). -/
opaque Config.intEntry : Word

/-- `IRQ_ENTRY`, the address an external interrupt transfers to: OPEN (rules R7, R387; log 7). -/
opaque Config.irqEntry : Word

/-- `DAA_FN` of the accumulator, Y and E: OPEN, "the new Ai is some function of the old Ai, Y and E"
(rules R7, R264; log 8). -/
opaque Config.daaFn : Byte → Bool → Bool → Byte

/-- `IRQ_PRESENT`, whether the environment ever raises an interrupt request: OPEN (rules R7, R383;
log 9). -/
opaque Config.irqPresent : Bool

/-- Whether the environment raises an interrupt request at the n-th instruction boundary: the free
schedule of rule R383 (log 9). -/
opaque Config.irqRequest : Nat → Bool

/-- The n-th draw of `unspecified_1()` (rules R9, R381; log 5). -/
opaque Config.unspecifiedBit : Nat → Bool

end Sys2Proof
end

