-- ==== Sys2Proof/Machine/Bits.lean ====
section
/-! DEFINITION. The notation of 00_scope rule R9 for parts of a value: concatenation, halves, sign and
zero extension. -/

namespace Sys2Proof.Machine

/-- `h ++ l`: the 16-bit value with `h` in the more significant position (rule R9). -/
def word (h l : Byte) : Word := h ++ l

/-- `hi8(v)` = `v[15:8]` (rule R9). -/
def hi8 (v : Word) : Byte := v.extractLsb' 8 8

/-- `lo8(v)` = `v[7:0]` (rule R9). -/
def lo8 (v : Word) : Byte := v.extractLsb' 0 8

/-- `zext_16(v)` (rule R9). -/
def zext16 (v : Byte) : Word := v.setWidth 16

/-- `sext_16(v)` (rule R9). -/
def sext16 (v : Byte) : Word := v.signExtend 16

/-- A bit as the number 0 or 1. -/
def bitNat (b : Bool) : Nat := b.toNat

end Sys2Proof.Machine
end

