-- ==== Sys2Proof/Machine/Memory.lean ====
section
/-! DEFINITION. The memory M of 10_state rule R31 as plain data: a list of (address, byte) pairs with
strictly rising addresses below 65536. An address that is not listed has no value: nothing has written
it since reset and the spec states no content for it (rule R34; log 4). -/

namespace Sys2Proof.Machine

/-- The bytes that have been written, by rising address. -/
abbrev Memory := List Host.Cell

/-- The byte at an address, if something has written it. -/
def Memory.read : Memory → Nat → Option Byte
  | [], _ => none
  | (k, v) :: m, a => if a = k then some v else Memory.read m a

/-- `M[a] <- v`, in canonical form. -/
def Memory.write : Memory → Nat → Byte → Memory
  | [], a, v => [(a, v)]
  | (k, w) :: m, a, v =>
    if a < k then (a, v) :: (k, w) :: m
    else if a = k then (k, v) :: m
    else (k, w) :: Memory.write m a v

/-- The addresses are strictly rising, at least `lo`, and 16-bit. -/
def Memory.wfFrom : Nat → Memory → Bool
  | _, [] => true
  | lo, (k, _) :: m => decide (lo ≤ k) && decide (k < 65536) && Memory.wfFrom (k + 1) m

/-- The canonical form: strictly rising 16-bit addresses. (No unlisted address has a value, so no entry
can repeat one.) -/
def Memory.wf (m : Memory) : Bool := m.wfFrom 0

end Sys2Proof.Machine
end

