-- ==== Sys2Proof/Syntax.lean ====
section
/-! DEFINITION. The instruction set as data (00_scope rule R2, 30_encoding rule R100): one constructor
for each of the 72 operations; a row of the opcode table is one constructor at one operand form
(log 1). -/

namespace Sys2Proof

/-- An operand `Ki`, `Kj`: "any 8-bit register" (rules R20, R23). -/
inductive Reg8 where
  | a | b | c | d
deriving DecidableEq, Repr

/-- An operand `Ai`: an accumulator (rules R20, R23). -/
inductive Acc where
  | a | b
deriving DecidableEq, Repr

/-- An operand `Kii`, `Kjj`: "any 16-bit register" (rules R21 to R23). -/
inductive Reg16 where
  | ab | cd | sk | yg
deriving DecidableEq, Repr

/-- The flags an instruction can name (rules R91, R94): every flag of DK but K. -/
inductive Flag where
  | e | y | n | s | t
deriving DecidableEq, Repr

/-- A memory operand by one of the seven memory addressing methods, with its operand bytes (rules R62
to R68). -/
inductive Mem where
  /-- D, `<adr>` (rule R62) -/
  | direct (adr : Word)
  /-- K, `<CD>` (rule R63) -/
  | indirect
  /-- S, `<SK+S>` (rule R64) -/
  | indexed (off : Byte)
  /-- R, `<SK+S>+R` (rule R65) -/
  | incremental (off step : Byte)
  /-- Z, `<SK+S>-R` (rule R66) -/
  | decremental (off step : Byte)
  /-- U, `<SK+CD+S>` (rule R67) -/
  | indirectSk (off : Byte)
  /-- Y, `<YG+S>` (rule R68) -/
  | indexedYg (off : Byte)
deriving DecidableEq, Repr

/-- An 8-bit source operand: methods V, L (rules R60, R61) or memory. -/
inductive Src8 where
  | imm (v : Byte)
  | reg (k : Reg8)
  | mem (m : Mem)
deriving DecidableEq, Repr

/-- A 16-bit source operand: methods V, L (rules R60, R61) or a byte pair in memory. -/
inductive Src16 where
  | imm (v : Word)
  | reg (k : Reg16)
  | mem (m : Mem)
deriving DecidableEq, Repr

/-- The one operand of a single-operand, bit, shift or rotate instruction (rules R220, R290). -/
inductive Operand8 where
  | reg (k : Reg8)
  | mem (m : Mem)
deriving DecidableEq, Repr

/-- The 72 operations of rule R100. -/
inductive Instr where
  /-- `ADD Ai,…` (rule R133) -/
  | add8 (d : Acc) (x : Src8)
  /-- `ADC Ai,…` (rule R134) -/
  | adc (d : Acc) (x : Src8)
  /-- `SUB Ai,…` (rule R135) -/
  | sub8 (d : Acc) (x : Src8)
  /-- `SUE Ai,…` (rule R136) -/
  | sue (d : Acc) (x : Src8)
  /-- `ADD AB,…` (rule R137) -/
  | add16 (x : Src16)
  /-- `SUB AB,…` (rule R138) -/
  | sub16 (x : Src16)
  /-- `MUL A,…` (rule R139) -/
  | mul (x : Src8)
  /-- `DIV AB,…` (rule R140) -/
  | div (x : Src8)
  /-- `MOV Ki,Kj` (rule R171) -/
  | mov8 (ki kj : Reg8)
  /-- `EXC Ki,Kj` (rule R172) -/
  | exc8 (ki kj : Reg8)
  /-- `CHN Ki` (rule R173) -/
  | chn (k : Reg8)
  /-- `LDA Ki,…` (rule R174) -/
  | lda8 (k : Reg8) (x : Src8)
  /-- `STR Ki,…` (rule R175) -/
  | str8 (k : Reg8) (m : Mem)
  /-- `STR V,<adr>` (rules R70, R176) -/
  | strImm (v : Byte) (adr : Word)
  /-- `MOV Kii,Kjj` (rule R177) -/
  | mov16 (kii kjj : Reg16)
  /-- `EXC Kii,Kjj` (rule R178) -/
  | exc16 (kii kjj : Reg16)
  /-- `LDA Kii,…` (rule R179) -/
  | lda16 (k : Reg16) (x : Src16)
  /-- `STR Kii,…` (rule R180) -/
  | str16 (k : Reg16) (m : Mem)
  /-- `AND Ai,…` (rule R201) -/
  | and (d : Acc) (x : Src8)
  /-- `OR Ai,…` (rule R202) -/
  | or (d : Acc) (x : Src8)
  /-- `XOR Ai,…` (rule R203) -/
  | xor (d : Acc) (x : Src8)
  /-- `CLR x` (rule R221) -/
  | clr (x : Operand8)
  /-- `INC x` (rule R222) -/
  | inc (x : Operand8)
  /-- `DEC x` (rule R223) -/
  | dec (x : Operand8)
  /-- `COM x` (rule R224) -/
  | com (x : Operand8)
  /-- `NEG x` (rule R225) -/
  | neg (x : Operand8)
  /-- `CLR N,x` (rule R226) -/
  | clrBit (n : BitVec 3) (x : Operand8)
  /-- `SET N,x` (rule R227) -/
  | setBit (n : BitVec 3) (x : Operand8)
  /-- `CLR flag` (rule R260) -/
  | clrFlag (f : Flag)
  /-- `SET flag` (rule R261) -/
  | setFlag (f : Flag)
  /-- `INC Kii` (rule R262) -/
  | inc16 (k : Reg16)
  /-- `DEC Kii` (rule R263) -/
  | dec16 (k : Reg16)
  /-- `DAA Ai` (rule R264) -/
  | daa (d : Acc)
  /-- `PSH Ai` (rule R265) -/
  | psh (k : Acc)
  /-- `PUL Ai` (rule R266) -/
  | pul (d : Acc)
  /-- `EIN` (rule R267) -/
  | ein
  /-- `DIN` (rule R268) -/
  | din
  /-- `NOP` (rule R269) -/
  | nop
  /-- `RTS` (rule R270) -/
  | rts
  /-- `RTI` (rule R271) -/
  | rti
  /-- `INT` (rule R272) -/
  | int
  /-- `LSL x` (rule R291) -/
  | lsl (x : Operand8)
  /-- `LSR x` (rule R292) -/
  | lsr (x : Operand8)
  /-- `ASR x` (rule R293) -/
  | asr (x : Operand8)
  /-- `ROL x` (rule R294) -/
  | rol (x : Operand8)
  /-- `ROR x` (rule R295) -/
  | ror (x : Operand8)
  /-- `CMP Ki,…` (rule R311) -/
  | cmp8 (k : Reg8) (x : Src8)
  /-- `CMP Kii,…` (rule R312) -/
  | cmp16 (k : Reg16) (x : Src16)
  /-- `BIT Ki,…` (rule R313) -/
  | bit (k : Reg8) (x : Src8)
  /-- `BRA V` (rule R331) -/
  | bra (step : Byte)
  /-- `JMP Adr` (rule R332) -/
  | jmp (adr : Word)
  /-- `JMC flag,Adr` (rule R333) -/
  | jmc (f : Flag) (adr : Word)
  /-- `BEQ V` (rule R334) -/
  | beq (step : Byte)
  /-- `BNE V` (rule R335) -/
  | bne (step : Byte)
  /-- `BGT V` (rule R336) -/
  | bgt (step : Byte)
  /-- `BGE V` (rule R337) -/
  | bge (step : Byte)
  /-- `BLS V` (rule R338) -/
  | bls (step : Byte)
  /-- `BHI V` (rule R339) -/
  | bhi (step : Byte)
  /-- `BHE V` (rule R340) -/
  | bhe (step : Byte)
  /-- `BLO V` (rule R341) -/
  | blo (step : Byte)
  /-- `BIO V` (rule R342) -/
  | bio (step : Byte)
  /-- `BNO V` (rule R343) -/
  | bno (step : Byte)
  /-- `BIC V` (rule R344) -/
  | bic (step : Byte)
  /-- `BNC V` (rule R345) -/
  | bnc (step : Byte)
  /-- `BIH V` (rule R346) -/
  | bih (step : Byte)
  /-- `BNH V` (rule R347) -/
  | bnh (step : Byte)
  /-- `BSR V` (rule R348) -/
  | bsr (step : Byte)
  /-- `JSR Adr` (rule R349) -/
  | jsr (adr : Word)
  /-- `BSC flag,V` (rule R350) -/
  | bscRel (f : Flag) (step : Byte)
  /-- `BSC flag,Adr` (rule R351) -/
  | bscAbs (f : Flag) (adr : Word)
  /-- `DBNZ Ki,V` (rule R352) -/
  | dbnzReg (k : Reg8) (step : Byte)
  /-- `DBNZ <Adr>,V` (rule R353) -/
  | dbnzMem (step : Byte) (adr : Word)
deriving DecidableEq, Repr

end Sys2Proof
end

