-- ==== Sys2Proof/Machine/Params.lean ====
section
/-! DEFINITION. The parameters of 00_scope rule R7 that have a default, at that default (log 6). The
register codes REG8_CODE and REG16_CODE stand in Decode.lean, the OPEN parameters in Config.lean, but for
RESET_PS, which State.reset needs as a value (log 3). -/

namespace Sys2Proof.Machine

/-- `OFFSET_S_SIGNED`: is the offset byte S sign-extended (rules R7, R64 to R68). -/
def offsetSSigned : Bool := false

/-- `XFER8_SETS_SN`: do 8-bit MOV and LDA write S and N (rules R7, R171). -/
def xfer8SetsSN : Bool := false

/-- `ARITH_FLAGS_DEFINED`: do ADD, ADC, SUB, SUE and the 16-bit ADD, SUB write the flags by rules R131
and R132, or leave all five unspecified (rule R7). -/
def arithFlagsDefined : Bool := true

/-- `MUL_SIGNED` (rules R7, R139). -/
def mulSigned : Bool := false

/-- `DIV_SIGNED` (rules R7, R140). -/
def divSigned : Bool := false

/-- `DIV_KEEPS_REMAINDER` (rules R7, R140). -/
def divKeepsRemainder : Bool := false

/-- `STACK_FULL_DESCENDING`: a push decrements YG and then writes, a pull reads and then increments (rules
R7, R72). `false` has no semantics: the stack primitives refuse it (log 15). -/
def stackFullDescending : Bool := true

/-- `RESET_PS`, the value of PS after reset: OPEN, the model names 0x0000 (rules R7, R420; log 3). -/
def resetPs : Word := 0x0000

/-- `K_ONE_ENABLES`: K = 1 means interrupts enabled (rules R7, R267, R383). -/
def kOneEnables : Bool := true

/-- `ENTRY_VIA_VECTOR`: is the entry parameter the address of a two-byte cell that holds the
handler's address (rules R7, R387). -/
def entryViaVector : Bool := false

/-- A register that trap entry can push (rule R386). -/
inductive FrameReg where
  | ps
  | dk
  | reg8 (k : Reg8)
  | reg16 (k : Reg16)
deriving DecidableEq, Repr

/-- `TRAP_FRAME`: the registers pushed on trap entry, in list order (rules R7, R386). -/
def trapFrame : List FrameReg := [.ps, .dk]

/-- The six flags of DK (rule R27). -/
inductive DkFlag where
  | e | y | s | n | t | k
deriving DecidableEq, Repr

/-- `DK_LAYOUT`: the bit of DK that holds a flag (rules R7, R28). -/
def dkBit : DkFlag → Nat
  | .e => 0
  | .y => 1
  | .n => 2
  | .s => 3
  | .t => 4
  | .k => 5

/-- `MEM_MAP`: does memory answer at this address (rules R7, R58). -/
def memMapped (_a : Word) : Bool := true

/-- `MEM_MAP`: can the memory at this address be written (rules R7, R58). -/
def memWritable (_a : Word) : Bool := true

end Sys2Proof.Machine
end

