-- ==== Sys2Proof/Machine/State.lean ====
section
/-! DEFINITION. The machine's state (10_state rules R20 to R34) and the reasons a step can stop
(60_exceptions rule R380). -/

namespace Sys2Proof.Machine

/-- DK, the status register: its six flags (rules R27, R28). Bits 6 and 7 of the byte hold nothing; the
byte itself is formed and taken apart by DK_LAYOUT where DK is pushed and pulled (log 10). -/
structure Status where
  /-- Carry -/
  e : Bool
  /-- Half Carry -/
  y : Bool
  /-- Zero -/
  s : Bool
  /-- Negative -/
  n : Bool
  /-- Overflow -/
  t : Bool
  /-- Interrupt -/
  k : Bool
deriving DecidableEq, Repr

/-- The state of the machine (rules R20 to R22, R26, R28, R31, R32) and two counters of the model. -/
structure State where
  /-- Accumulator A, the high byte of AB (rules R20, R21) -/
  a : Byte
  /-- Accumulator B, the low byte of AB (rules R20, R21) -/
  b : Byte
  /-- AUX Register C, the high byte of CD (rules R20, R21) -/
  c : Byte
  /-- AUX Register D, the low byte of CD (rules R20, R21) -/
  d : Byte
  /-- Index register (rule R22) -/
  sk : Word
  /-- Stack pointer (rule R22) -/
  yg : Word
  /-- Program counter (rules R22, R26) -/
  ps : Word
  /-- Status register (rules R27, R28) -/
  dk : Status
  /-- The memory M (rule R31) -/
  mem : Memory
  /-- `irq_pending`, a request waits to be accepted (rule R32) -/
  irqPending : Bool
  /-- The model's own: how many unspecified bits have been drawn (rule R381; log 5) -/
  draws : Nat
  /-- The model's own: how many instruction boundaries have passed, the index into the environment's
  schedule of requests (rule R383; log 9) -/
  boundary : Nat
deriving DecidableEq, Repr

/-- What the spec gives no meaning: the information an UnspecifiedCombination carries (rule R380). -/
inductive Unspecified where
  /-- an instruction with an operand combination (rules R71, R179), or DIV under a parameter value (rule
  R140), that has no semantics -/
  | instruction (i : Instr)
  /-- a push or a pull under STACK_FULL_DESCENDING = false (rule R72) -/
  | stackConvention
deriving DecidableEq, Repr

/-- The model-level faults (rule R380). A fault ends the run, and the step that raises it writes
nothing. -/
inductive Fault where
  /-- Raised by decode: the bytes at PS match no row of the opcode table (rule R110). Carries the PS at
  which the fetch began and the bytes fetched so far. Safe: the chip does something, the spec refuses to
  say what. -/
  | illegalInstruction (ps : Word) (bytes : List Byte)
  /-- Raised by a fetch, operand access, push or pull at an address outside MEM_MAP, or by a write to a
  read-only address (rule R53). Safe. It cannot occur under the default map (log 14). -/
  | busFault (addr : Word)
  /-- Raised by a fetch, operand read or pull of a byte that nothing has written since reset (rule R34
  allows the fault in place of a draw; log 4). Safe. -/
  | uninitialisedRead (addr : Word)
  /-- Raised by DIV with divisor 0 (rule R140). Safe. -/
  | divideByZero
  /-- Raised by what the spec gives no meaning: 16-bit LDA of SK by method R or Z (rules R71, R179), DIV
  and the stack primitives under a parameter value without semantics (rules R140, R72). Safe. -/
  | unspecifiedCombination (what : Unspecified)
deriving DecidableEq, Repr

/-- Why the model gives an instruction no meaning. -/
inductive Refusal where
  /-- Raised by an arm of exec for an instruction that is not modelled yet. Safe: it is not run. No
  instruction is left so. -/
  | notModelled (mnemonic : String)
deriving DecidableEq, Repr

/-- The machine right after reset (rules R34, R420): K disables, no request is pending; PS is the
parameter RESET_PS (log 3); the registers and flags the spec leaves unspecified are 0 (log 2);
no memory byte has a value (log 4). -/
def State.reset : State where
  a := 0
  b := 0
  c := 0
  d := 0
  sk := 0
  yg := 0
  ps := resetPs
  dk := { e := false, y := false, s := false, n := false, t := false, k := !kOneEnables }
  mem := []
  irqPending := false
  draws := 0
  boundary := 0

end Sys2Proof.Machine
end

