-- ==== Sys2Proof/Machine/Ops.lean ====
section
/-! DEFINITION. The named operations over registers, flags, memory and the stack (10_state rules R20 to
R28, 20_memory rules R53, R72), taking an exception and returning from one (60_exceptions rules R384,
R386, R388). -/

namespace Sys2Proof.Machine

/-! ### Registers -/

/-- `x[Ki]` (rules R9, R20). -/
def State.reg8 (s : State) : Reg8 → Byte
  | .a => s.a
  | .b => s.b
  | .c => s.c
  | .d => s.d

/-- `x[Ki] <- v` (rules R9, R20). -/
def State.setReg8 (s : State) (k : Reg8) (v : Byte) : State :=
  match k with
  | .a => { s with a := v }
  | .b => { s with b := v }
  | .c => { s with c := v }
  | .d => { s with d := v }

/-- An accumulator as an 8-bit register (rule R20). -/
def accReg : Acc → Reg8
  | .a => .a
  | .b => .b

/-- `x[Kii]`; AB is A ++ B and CD is C ++ D (rules R9, R21, R22). -/
def State.reg16 (s : State) : Reg16 → Word
  | .ab => word s.a s.b
  | .cd => word s.c s.d
  | .sk => s.sk
  | .yg => s.yg

/-- `x[Kii] <- v`; a write of AB or CD writes both halves (rules R9, R21, R22). -/
def State.setReg16 (s : State) (k : Reg16) (v : Word) : State :=
  match k with
  | .ab => { s with a := hi8 v, b := lo8 v }
  | .cd => { s with c := hi8 v, d := lo8 v }
  | .sk => { s with sk := v }
  | .yg => { s with yg := v }

/-- `pc <- target` (rule R9). -/
def State.jump (s : State) (target : Word) : State := { s with ps := target }

/-! ### Flags and DK -/

/-- The flag `f` of a status. -/
def Status.get (dk : Status) : Flag → Bool
  | .e => dk.e
  | .y => dk.y
  | .n => dk.n
  | .s => dk.s
  | .t => dk.t

/-- A status with the flag `f` written. -/
def Status.put (dk : Status) (f : Flag) (b : Bool) : Status :=
  match f with
  | .e => { dk with e := b }
  | .y => { dk with y := b }
  | .n => { dk with n := b }
  | .s => { dk with s := b }
  | .t => { dk with t := b }

/-- `DK.f` (rule R9). -/
def State.flag (s : State) (f : Flag) : Bool := s.dk.get f

/-- `DK.f <- b` (rule R9). -/
def State.putFlag (s : State) (f : Flag) (b : Bool) : State := { s with dk := s.dk.put f b }

/-- All flags of DK at once (rule R27). -/
def State.putStatus (s : State) (dk : Status) : State := { s with dk := dk }

/-- `DK.K <- b` (rules R27, R389). -/
def State.putK (s : State) (b : Bool) : State := { s with dk := { s.dk with k := b } }

/-- `DK.f <- unspecified_1()`: the flag receives the next free value (rules R9, R381; log 5). -/
def State.drawFlag (s : State) (f : Flag) : State :=
  { s with dk := s.dk.put f (Config.unspecifiedBit s.draws), draws := s.draws + 1 }

/-- Each of T, S, N, Y, E receives `unspecified_1()` (rules R131, R139, R140). -/
def State.drawAll (s : State) : State :=
  ((((s.drawFlag .t).drawFlag .s).drawFlag .n).drawFlag .y).drawFlag .e

/-- Bit `i` of a byte, set if `b`. -/
def bitAt (b : Bool) (i : Nat) : Byte := if b then (1 : Byte) <<< i else 0

/-- The byte of DK by DK_LAYOUT; bits 6 and 7 are 0 (rules R28, R386). -/
def dkByte (dk : Status) : Byte :=
  bitAt dk.e (dkBit .e) ||| bitAt dk.y (dkBit .y) ||| bitAt dk.n (dkBit .n) |||
    bitAt dk.s (dkBit .s) ||| bitAt dk.t (dkBit .t) ||| bitAt dk.k (dkBit .k)

/-- The flags of a DK byte by DK_LAYOUT; bits 6 and 7 are ignored (rules R28, R388). -/
def dkOfByte (v : Byte) : Status where
  e := v.getLsbD (dkBit .e)
  y := v.getLsbD (dkBit .y)
  s := v.getLsbD (dkBit .s)
  n := v.getLsbD (dkBit .n)
  t := v.getLsbD (dkBit .t)
  k := v.getLsbD (dkBit .k)

/-! ### Memory (rule R53) -/

/-- `MemRead(addr, 1)` (rule R53). -/
def State.read8 (s : State) (addr : Word) : Except Fault Byte :=
  if memMapped addr then
    match s.mem.read addr.toNat with
    | some v => .ok v
    | none => .error (.uninitialisedRead addr)
  else .error (.busFault addr)

/-- `M[addr] <- v` (rule R31). -/
def State.poke (s : State) (addr : Word) (v : Byte) : State :=
  { s with mem := s.mem.write addr.toNat v }

/-- `MemWrite(addr, 1, v)` (rule R53). -/
def State.write8 (s : State) (addr : Word) (v : Byte) : Except Fault State :=
  if memMapped addr && memWritable addr then .ok (s.poke addr v)
  else .error (.busFault addr)

/-- `MemRead(addr, 2)`: the lower address first, its byte the more significant; the second byte of an
access at 0xFFFF is at 0x0000 (rules R51, R53). -/
def State.read16 (s : State) (addr : Word) : Except Fault Word := do
  let h ← s.read8 addr
  let l ← s.read8 (addr + 1)
  return word h l

/-- `MemWrite(addr, 2, v)`: the high byte to the lower address, first (rules R51, R53). -/
def State.write16 (s : State) (addr : Word) (v : Word) : Except Fault State := do
  let s ← s.write8 addr (hi8 v)
  s.write8 (addr + 1) (lo8 v)

/-! ### The stack (rule R72): its two primitives read the parameter STACK_FULL_DESCENDING (log 15) -/

/-- `Push8(v)` (rule R72). -/
def State.push8 (s : State) (v : Byte) : Except Fault State :=
  if stackFullDescending then (s.setReg16 .yg (s.yg - 1)).write8 (s.yg - 1) v
  else .error (.unspecifiedCombination .stackConvention)

/-- `Pull8()` (rule R72). -/
def State.pull8 (s : State) : Except Fault (Byte × State) :=
  if stackFullDescending then do
    let v ← s.read8 s.yg
    return (v, s.setReg16 .yg (s.yg + 1))
  else .error (.unspecifiedCombination .stackConvention)

/-- `Push16(v)`: the low byte first (rule R72). -/
def State.push16 (s : State) (v : Word) : Except Fault State := do
  let s ← s.push8 (lo8 v)
  s.push8 (hi8 v)

/-- `Pull16()`: the high byte first (rule R72). -/
def State.pull16 (s : State) : Except Fault (Word × State) := do
  let (h, s) ← s.pull8
  let (l, s) ← s.pull8
  return (word h l, s)

/-! ### Taking an exception and returning from one (rules R384, R386, R388) -/

/-- Push one register of the frame; PS stands for the return address `ret` (rule R386). -/
def State.pushReg (s : State) (ret : Word) : FrameReg → Except Fault State
  | .ps => s.push16 ret
  | .dk => s.push8 (dkByte s.dk)
  | .reg8 k => s.push8 (s.reg8 k)
  | .reg16 k => s.push16 (s.reg16 k)

/-- Push the registers of a frame in list order (rule R386). -/
def State.pushFrame (s : State) (ret : Word) : List FrameReg → Except Fault State
  | [] => .ok s
  | r :: rs =>
    match s.pushReg ret r with
    | .ok s => s.pushFrame ret rs
    | .error f => .error f

/-- The value of K that enables interrupts (rules R267, R383). -/
def kEnabling : Bool := kOneEnables

/-- Where control goes: the entry is the handler's address, or the address of a cell that holds it, high
byte first (rules R386, R387). -/
def State.enter (s : State) (entry : Word) : Except Fault State :=
  if entryViaVector then do
    let target ← s.read16 entry
    return s.jump target
  else .ok (s.jump entry)

/-- `TrapEntry(ret, entry)`: push the frame, disable interrupts, transfer control (rule R386). -/
def State.trapEntry (s : State) (ret entry : Word) : Except Fault State :=
  match s.pushFrame ret trapFrame with
  | .ok s => (s.putK !kEnabling).enter entry
  | .error f => .error f

/-- Pull one register of the frame (rule R388). -/
def State.pullReg (s : State) : FrameReg → Except Fault State
  | .ps => do
    let (v, s) ← s.pull16
    return s.jump v
  | .dk => do
    let (v, s) ← s.pull8
    return s.putStatus (dkOfByte v)
  | .reg8 k => do
    let (v, s) ← s.pull8
    return s.setReg8 k v
  | .reg16 k => do
    let (v, s) ← s.pull16
    return s.setReg16 k v

/-- Pull registers in list order. -/
def State.pullFrame (s : State) : List FrameReg → Except Fault State
  | [] => .ok s
  | r :: rs =>
    match s.pullReg r with
    | .ok s => s.pullFrame rs
    | .error f => .error f

/-- Return from a trap: the frame in the reverse of the order of entry (rule R388). -/
def State.trapReturn (s : State) : Except Fault State := s.pullFrame trapFrame.reverse

/-- What the environment does at an instruction boundary: it may raise a request, when the parameter
IRQ_PRESENT is true; a request already pending stays (rule R383; log 9). -/
def State.pollIrq (s : State) : State :=
  { s with
    irqPending := s.irqPending || (Config.irqPresent && Config.irqRequest s.boundary)
    boundary := s.boundary + 1 }

/-- `DK.K` has the enabling value (rule R383). -/
def State.irqEnabled (s : State) : Bool := s.dk.k == kEnabling

/-- The test at an instruction boundary (rule R384). -/
def State.irqAccepted (s : State) : Bool := s.irqEnabled && (s.irqPending && Config.irqPresent)

/-- Interrupt acceptance: the request is cleared and the trap is entered; the return address is the
instruction that would have executed next (rule R384). -/
def State.acceptIrq (s : State) : Except Fault State :=
  { s with irqPending := false }.trapEntry s.ps Config.irqEntry

/-! ### Outcomes -/

/-- A step that ends in a state, or in a fault that discards every change (rule R380). -/
def finish : Except Fault State → Host.Outcome State Fault Refusal
  | .ok s => .next s
  | .error f => .fault f

end Sys2Proof.Machine
end

