-- ==== Sys2Proof/Machine/Flags.lean ====
section
/-! DEFINITION. Every flag computation of the spec: zero and negative (10_state rule R30), additions
(40_arithmetic rule R131), subtractions (rule R132), increments and decrements (rules R222, R223, R262,
R263). Sums are exact, in Nat, and narrowed once. -/

namespace Sys2Proof.Machine

/-- S and N from a result, `Zf` and `Nf` (rule R30), at 8 bits. -/
def Status.sn8 (dk : Status) (r : Byte) : Status := { dk with s := r == 0, n := r.msb }

/-- S and N from a result, `Zf` and `Nf` (rule R30), at 16 bits. -/
def Status.sn16 (dk : Status) (r : Word) : Status := { dk with s := r == 0, n := r.msb }

/-! ### Additions (rule R131) -/

/-- `r` of AddFlags8. -/
def add8 (a b : Byte) (cin : Bool) : Byte := BitVec.ofNat 8 (a.toNat + b.toNat + bitNat cin)

/-- The flags of AddFlags8. -/
def Status.afterAdd8 (dk : Status) (a b : Byte) (cin : Bool) : Status :=
  { dk.sn8 (add8 a b cin) with
    e := decide (256 ≤ a.toNat + b.toNat + bitNat cin)
    y := decide (16 ≤ a.toNat % 16 + b.toNat % 16 + bitNat cin)
    t := a.msb == b.msb && (add8 a b cin).msb != a.msb }

/-- `r` of AddFlags16. -/
def add16 (a b : Word) : Word := BitVec.ofNat 16 (a.toNat + b.toNat)

/-- The flags of AddFlags16 but Y, which is unspecified. -/
def Status.afterAdd16 (dk : Status) (a b : Word) : Status :=
  { dk.sn16 (add16 a b) with
    e := decide (65536 ≤ a.toNat + b.toNat)
    t := a.msb == b.msb && (add16 a b).msb != a.msb }

/-! ### Subtractions (rule R132): E is a borrow -/

/-- `r` of SubFlags8: (a - b - bin) mod 256. -/
def sub8 (a b : Byte) (bin : Bool) : Byte := BitVec.ofNat 8 (512 + a.toNat - b.toNat - bitNat bin)

/-- The flags of SubFlags8. -/
def Status.afterSub8 (dk : Status) (a b : Byte) (bin : Bool) : Status :=
  { dk.sn8 (sub8 a b bin) with
    e := decide (a.toNat < b.toNat + bitNat bin)
    y := decide (a.toNat % 16 < b.toNat % 16 + bitNat bin)
    t := a.msb != b.msb && (sub8 a b bin).msb != a.msb }

/-- `r` of SubFlags16: (a - b) mod 65536. -/
def sub16 (a b : Word) : Word := BitVec.ofNat 16 (65536 + a.toNat - b.toNat)

/-- The flags of SubFlags16 but Y, which is unspecified. -/
def Status.afterSub16 (dk : Status) (a b : Word) : Status :=
  { dk.sn16 (sub16 a b) with
    e := decide (a.toNat < b.toNat)
    t := a.msb != b.msb && (sub16 a b).msb != a.msb }

/-! ### Increments and decrements: Y is not written -/

/-- The flags of the 8-bit INC of `v` (rule R222). -/
def Status.afterInc8 (dk : Status) (v : Byte) : Status :=
  { dk.sn8 (v + 1) with t := v == 0x7F, e := v == 0xFF }

/-- The flags of the 8-bit DEC of `v` (rule R223). -/
def Status.afterDec8 (dk : Status) (v : Byte) : Status :=
  { dk.sn8 (v - 1) with t := v == 0x80, e := v == 0x00 }

/-- The flags of INC Kii of `v` (rule R262). -/
def Status.afterInc16 (dk : Status) (v : Word) : Status :=
  { dk.sn16 (v + 1) with t := v == 0x7FFF, e := v == 0xFFFF }

/-- The flags of DEC Kii of `v` (rule R263). -/
def Status.afterDec16 (dk : Status) (v : Word) : Status :=
  { dk.sn16 (v - 1) with t := v == 0x8000, e := v == 0x0000 }

/-- The flags of CLR x, printed constants (rule R221). -/
def Status.afterClr (dk : Status) : Status :=
  { dk with t := false, s := true, n := false, y := false, e := false }

/-! ### Writing DK -/

/-- The flags of ADD, ADC, SUB, SUE: as computed, or all five unspecified (rule R131, parameter
ARITH_FLAGS_DEFINED). -/
def State.putArith8 (s : State) (dk : Status) : State :=
  if arithFlagsDefined then s.putStatus dk else s.drawAll

/-- The flags of the 16-bit ADD and SUB: as computed with Y unspecified, or all five unspecified (rules
R131, R132, parameter ARITH_FLAGS_DEFINED). -/
def State.putArith16 (s : State) (dk : Status) : State :=
  if arithFlagsDefined then (s.putStatus dk).drawFlag .y else s.drawAll

end Sys2Proof.Machine
end

