-- ==== Sys2Proof/Machine/Operands.lean ====
section
/-! DEFINITION. Every operand form of the spec: effective addresses and the step of SK (20_memory rules
R60 to R68), and the order of effects inside an instruction (rule R71), written once for a source
operand, for a store and for a read-modify-write. -/

namespace Sys2Proof.Machine

/-- `off(S)` (20_memory section 5, parameter OFFSET_S_SIGNED). -/
def off (o : Byte) : Word := if offsetSSigned then sext16 o else zext16 o

/-- The effective address, from the registers before the instruction (rules R62 to R68, R71). -/
def State.ea (s : State) : Mem → Word
  | .direct adr => adr
  | .indirect => s.reg16 .cd
  | .indexed o => s.sk + off o
  | .incremental o _ => s.sk + off o
  | .decremental o _ => s.sk + off o
  | .indirectSk o => s.sk + s.reg16 .cd + off o
  | .indexedYg o => s.yg + off o

/-- The `post` of a memory operand: methods R and Z step SK, always by the zero-extended step byte (rules
R65, R66, R130). -/
def State.stepSk (s : State) : Mem → State
  | .incremental _ r => { s with sk := s.sk + zext16 r }
  | .decremental _ r => { s with sk := s.sk - zext16 r }
  | _ => s

/-- The value of `operand8(method)` (rule R130). -/
def State.src8 (s : State) : Src8 → Except Fault Byte
  | .imm v => .ok v
  | .reg k => .ok (s.reg8 k)
  | .mem m => s.read8 (s.ea m)

/-- The `post` of `operand8(method)` (rule R130). -/
def State.post8 (s : State) : Src8 → State
  | .mem m => s.stepSk m
  | _ => s

/-- The value of `operand16(method)` (rule R130). -/
def State.src16 (s : State) : Src16 → Except Fault Word
  | .imm v => .ok v
  | .reg k => .ok (s.reg16 k)
  | .mem m => s.read16 (s.ea m)

/-- The `post` of `operand16(method)` (rule R130). -/
def State.post16 (s : State) : Src16 → State
  | .mem m => s.stepSk m
  | _ => s

/-- An instruction with an 8-bit source operand: read it, run `f` on its value, step SK (rules R71,
R130). -/
def withSrc8 (x : Src8) (s : State) (f : Byte → State → State) : Host.Outcome State Fault Refusal :=
  match s.src8 x with
  | .ok v => .next ((f v s).post8 x)
  | .error e => .fault e

/-- An instruction with a 16-bit source operand (rules R71, R130). -/
def withSrc16 (x : Src16) (s : State) (f : Word → State → State) :
    Host.Outcome State Fault Refusal :=
  match s.src16 x with
  | .ok v => .next ((f v s).post16 x)
  | .error e => .fault e

/-- Store a byte at a memory operand, then step SK (rules R71, R175). -/
def store8 (m : Mem) (v : Byte) (s : State) : Host.Outcome State Fault Refusal :=
  match s.write8 (s.ea m) v with
  | .ok t => .next (t.stepSk m)
  | .error e => .fault e

/-- Store a byte pair at a memory operand, then step SK (rules R71, R180). -/
def store16 (m : Mem) (v : Word) (s : State) : Host.Outcome State Fault Refusal :=
  match s.write16 (s.ea m) v with
  | .ok t => .next (t.stepSk m)
  | .error e => .fault e

/-- `rmw(method, f)` of rule R220: the operand becomes `f` of itself, `flags old` gives the flags, and SK
is stepped last (rules R55, R71, R220). -/
def rmw (x : Operand8) (s : State) (f : Byte → Byte) (flags : Byte → State → State) :
    Host.Outcome State Fault Refusal :=
  match x with
  | .reg k => .next (flags (s.reg8 k) (s.setReg8 k (f (s.reg8 k))))
  | .mem m =>
    match s.read8 (s.ea m) with
    | .ok v =>
      match s.write8 (s.ea m) (f v) with
      | .ok t => .next ((flags v t).stepSk m)
      | .error e => .fault e
    | .error e => .fault e

end Sys2Proof.Machine
end

