-- ==== Sys2Proof/Machine/Arithmetic.lean ====
section
/-! DEFINITION. The arithmetic instructions (40_arithmetic rules R130 to R140). In every meaning, `s` is
the state in which PS already holds the address after the instruction (10_state rule R26). -/

namespace Sys2Proof.Machine

/-- `x[Ai] <- AddFlags8(x[Ai], v, cin)` (rule R131). -/
def State.accAdd (s : State) (d : Acc) (v : Byte) (cin : Bool) : State :=
  (s.setReg8 (accReg d) (add8 (s.reg8 (accReg d)) v cin)).putArith8
    (s.dk.afterAdd8 (s.reg8 (accReg d)) v cin)

/-- `x[Ai] <- SubFlags8(x[Ai], v, bin)` (rule R132). -/
def State.accSub (s : State) (d : Acc) (v : Byte) (bin : Bool) : State :=
  (s.setReg8 (accReg d) (sub8 (s.reg8 (accReg d)) v bin)).putArith8
    (s.dk.afterSub8 (s.reg8 (accReg d)) v bin)

/-- The product of two bytes (rule R139, parameter MUL_SIGNED). -/
def mulResult (a v : Byte) : Word := if mulSigned then sext16 a * sext16 v else zext16 a * zext16 v

/-- The 16-bit quotient of a word by a non-zero byte; the remainder is lost (rule R140). -/
def divResult (ab : Word) (v : Byte) : Word := BitVec.ofNat 16 (ab.toNat / v.toNat)

/-- `ADD Ai,x` (rule R133). -/
def execAdd8 (d : Acc) (x : Src8) (s : State) : Host.Outcome State Fault Refusal :=
  withSrc8 x s fun v s => s.accAdd d v false

/-- `ADC Ai,x` (rule R134). -/
def execAdc (d : Acc) (x : Src8) (s : State) : Host.Outcome State Fault Refusal :=
  withSrc8 x s fun v s => s.accAdd d v s.dk.e

/-- `SUB Ai,x` (rule R135). -/
def execSub8 (d : Acc) (x : Src8) (s : State) : Host.Outcome State Fault Refusal :=
  withSrc8 x s fun v s => s.accSub d v false

/-- `SUE Ai,x` (rule R136). -/
def execSue (d : Acc) (x : Src8) (s : State) : Host.Outcome State Fault Refusal :=
  withSrc8 x s fun v s => s.accSub d v s.dk.e

/-- `ADD AB,x` (rule R137). -/
def execAdd16 (x : Src16) (s : State) : Host.Outcome State Fault Refusal :=
  withSrc16 x s fun v s =>
    (s.setReg16 .ab (add16 (s.reg16 .ab) v)).putArith16 (s.dk.afterAdd16 (s.reg16 .ab) v)

/-- `SUB AB,x` (rule R138). -/
def execSub16 (x : Src16) (s : State) : Host.Outcome State Fault Refusal :=
  withSrc16 x s fun v s =>
    (s.setReg16 .ab (sub16 (s.reg16 .ab) v)).putArith16 (s.dk.afterSub16 (s.reg16 .ab) v)

/-- `MUL A,x`: the product to AB, every flag of T, S, N, Y, E unspecified (rule R139). -/
def execMul (x : Src8) (s : State) : Host.Outcome State Fault Refusal :=
  withSrc8 x s fun v s => (s.setReg16 .ab (mulResult s.a v)).drawAll

/-- `DIV AB,x`: the quotient to AB, every flag of T, S, N, Y, E unspecified; divisor 0 is the fault
DivideByZero and changes nothing (rule R140). A parameter value without semantics is refused after the
operand is read (rule R140, log 15). -/
def execDiv (x : Src8) (s : State) : Host.Outcome State Fault Refusal :=
  match s.src8 x with
  | .ok v =>
    if v = 0 then .fault .divideByZero
    else if divSigned || divKeepsRemainder then .fault (.unspecifiedCombination (.instruction (.div x)))
    else .next ((s.setReg16 .ab (divResult (s.reg16 .ab) v)).drawAll.post8 x)
  | .error e => .fault e

end Sys2Proof.Machine
end

