-- ==== Sys2Proof/Machine/Branch.lean ====
section
/-! DEFINITION. The jump and branch instructions (47_jump_branch rules R330 to R353). `s` is the state
with PS already at `next`, the address after the instruction (10_state rule R26). -/

namespace Sys2Proof.Machine

/-- The relative target `next + sext_16(step)` (rule R330). -/
def State.relTarget (s : State) (step : Byte) : Word := s.ps + sext16 step

/-- `if cond then PS <- next + sext_16(step) else PS <- next` (rule R330). -/
def State.branchIf (s : State) (cond : Bool) (step : Byte) : State :=
  if cond then s.jump (s.relTarget step) else s

/-- `Push16(next); PS <- target` (rule R348). -/
def State.call (s : State) (target : Word) : Host.Outcome State Fault Refusal :=
  match s.push16 s.ps with
  | .ok t => .next (t.jump target)
  | .error e => .fault e

/-- `BRA V` (rule R331). -/
def execBra (step : Byte) (s : State) : Host.Outcome State Fault Refusal :=
  .next (s.jump (s.relTarget step))

/-- `JMP Adr` (rule R332). -/
def execJmp (adr : Word) (s : State) : Host.Outcome State Fault Refusal := .next (s.jump adr)

/-- `JMC flag,Adr` (rule R333). -/
def execJmc (f : Flag) (adr : Word) (s : State) : Host.Outcome State Fault Refusal :=
  .next (if s.flag f then s.jump adr else s)

/-- `BEQ V`: S = 1 (rule R334). -/
def execBeq (step : Byte) (s : State) : Host.Outcome State Fault Refusal :=
  .next (s.branchIf s.dk.s step)

/-- `BNE V`: S = 0 (rule R335). -/
def execBne (step : Byte) (s : State) : Host.Outcome State Fault Refusal :=
  .next (s.branchIf (!s.dk.s) step)

/-- `BGT V`: S = 0 and N = T (rule R336). -/
def execBgt (step : Byte) (s : State) : Host.Outcome State Fault Refusal :=
  .next (s.branchIf (!s.dk.s && s.dk.n == s.dk.t) step)

/-- `BGE V`: N = T (rule R337). -/
def execBge (step : Byte) (s : State) : Host.Outcome State Fault Refusal :=
  .next (s.branchIf (s.dk.n == s.dk.t) step)

/-- `BLS V`: N differs from T (rule R338). -/
def execBls (step : Byte) (s : State) : Host.Outcome State Fault Refusal :=
  .next (s.branchIf (s.dk.n != s.dk.t) step)

/-- `BHI V`: E = 0 and S = 0 (rule R339). -/
def execBhi (step : Byte) (s : State) : Host.Outcome State Fault Refusal :=
  .next (s.branchIf (!s.dk.e && !s.dk.s) step)

/-- `BHE V`: E = 0 (rule R340). -/
def execBhe (step : Byte) (s : State) : Host.Outcome State Fault Refusal :=
  .next (s.branchIf (!s.dk.e) step)

/-- `BLO V`: E = 1 (rule R341). -/
def execBlo (step : Byte) (s : State) : Host.Outcome State Fault Refusal :=
  .next (s.branchIf s.dk.e step)

/-- `BIO V`: T = 1 (rule R342). -/
def execBio (step : Byte) (s : State) : Host.Outcome State Fault Refusal :=
  .next (s.branchIf s.dk.t step)

/-- `BNO V`: T = 0 (rule R343). -/
def execBno (step : Byte) (s : State) : Host.Outcome State Fault Refusal :=
  .next (s.branchIf (!s.dk.t) step)

/-- `BIC V`: E = 1 (rule R344). -/
def execBic (step : Byte) (s : State) : Host.Outcome State Fault Refusal :=
  .next (s.branchIf s.dk.e step)

/-- `BNC V`: E = 0 (rule R345). -/
def execBnc (step : Byte) (s : State) : Host.Outcome State Fault Refusal :=
  .next (s.branchIf (!s.dk.e) step)

/-- `BIH V`: Y = 1 (rule R346). -/
def execBih (step : Byte) (s : State) : Host.Outcome State Fault Refusal :=
  .next (s.branchIf s.dk.y step)

/-- `BNH V`: Y = 0 (rule R347). -/
def execBnh (step : Byte) (s : State) : Host.Outcome State Fault Refusal :=
  .next (s.branchIf (!s.dk.y) step)

/-- `BSR V` (rule R348). -/
def execBsr (step : Byte) (s : State) : Host.Outcome State Fault Refusal :=
  s.call (s.relTarget step)

/-- `JSR Adr` (rule R349). -/
def execJsr (adr : Word) (s : State) : Host.Outcome State Fault Refusal := s.call adr

/-- `BSC flag,V`: nothing is pushed when the call is not taken (rule R350). -/
def execBscRel (f : Flag) (step : Byte) (s : State) : Host.Outcome State Fault Refusal :=
  if s.flag f then s.call (s.relTarget step) else .next s

/-- `BSC flag,Adr` (rule R351). -/
def execBscAbs (f : Flag) (adr : Word) (s : State) : Host.Outcome State Fault Refusal :=
  if s.flag f then s.call adr else .next s

/-- `DBNZ Ki,V`: the test is on the decremented register, no flag is written (rule R352). -/
def execDbnzReg (k : Reg8) (step : Byte) (s : State) : Host.Outcome State Fault Refusal :=
  .next ((s.setReg8 k (s.reg8 k - 1)).branchIf (s.reg8 k - 1 != 0) step)

/-- `DBNZ <Adr>,V`: the byte is always written (rule R353). -/
def execDbnzMem (step : Byte) (adr : Word) (s : State) : Host.Outcome State Fault Refusal :=
  match s.read8 adr with
  | .ok v =>
    match s.write8 adr (v - 1) with
    | .ok t => .next (t.branchIf (v - 1 != 0) step)
    | .error e => .fault e
  | .error e => .fault e

end Sys2Proof.Machine
end

