-- ==== Sys2Proof/Machine/Compare.lean ====
section
/-! DEFINITION. The compare instructions (46_compare rules R310 to R313): flags as written even when
ARITH_FLAGS_DEFINED is false (rule R311). `s` is the state with PS already after the instruction (10_state
rule R26). -/

namespace Sys2Proof.Machine

/-- `CMP Ki,x` (rule R311). -/
def execCmp8 (k : Reg8) (x : Src8) (s : State) : Host.Outcome State Fault Refusal :=
  withSrc8 x s fun v s => s.putStatus (s.dk.afterSub8 (s.reg8 k) v false)

/-- `CMP Kii,x`, Y unspecified (rule R312). -/
def execCmp16 (k : Reg16) (x : Src16) (s : State) : Host.Outcome State Fault Refusal :=
  withSrc16 x s fun v s => (s.putStatus (s.dk.afterSub16 (s.reg16 k) v)).drawFlag .y

/-- `BIT Ki,x`: S and N of the AND; T, then Y, then E unspecified (rule R313). -/
def execBit (k : Reg8) (x : Src8) (s : State) : Host.Outcome State Fault Refusal :=
  withSrc8 x s fun v s =>
    (((s.putStatus (s.dk.sn8 (s.reg8 k &&& v))).drawFlag .t).drawFlag .y).drawFlag .e

end Sys2Proof.Machine
end

