-- ==== Sys2Proof/Machine/Logic.lean ====
section
/-! DEFINITION. The logic instructions (42_logic rules R200 to R203). `s` is the state with PS already
after the instruction (10_state rule R26). -/

namespace Sys2Proof.Machine

/-- `x[Ai] <- r`, S and N from `r`, no other flag (rule R200). -/
def State.accLogic (s : State) (d : Acc) (r : Byte) : State :=
  (s.setReg8 (accReg d) r).putStatus (s.dk.sn8 r)

/-- `AND Ai,x` (rule R201). -/
def execAnd (d : Acc) (x : Src8) (s : State) : Host.Outcome State Fault Refusal :=
  withSrc8 x s fun v s => s.accLogic d (s.reg8 (accReg d) &&& v)

/-- `OR Ai,x` (rule R202). -/
def execOr (d : Acc) (x : Src8) (s : State) : Host.Outcome State Fault Refusal :=
  withSrc8 x s fun v s => s.accLogic d (s.reg8 (accReg d) ||| v)

/-- `XOR Ai,x` (rule R203). -/
def execXor (d : Acc) (x : Src8) (s : State) : Host.Outcome State Fault Refusal :=
  withSrc8 x s fun v s => s.accLogic d (s.reg8 (accReg d) ^^^ v)

end Sys2Proof.Machine
end

