-- ==== Sys2Proof/Machine/Operation.lean ====
section
/-! DEFINITION. OPERATION - I and II (43_operation_1_2 rules R220 to R228): the one-operand and the bit
instructions. `s` is the state with PS already after the instruction (10_state rule R26). -/

namespace Sys2Proof.Machine

/-- The byte with only bit `n` set (rules R8, R226). -/
def bitMask (n : BitVec 3) : Byte := (1 : Byte) <<< n.toNat

/-- `CLR x`: the old byte of a memory operand is not read (rules R55, R221). -/
def execClr (x : Operand8) (s : State) : Host.Outcome State Fault Refusal :=
  match x with
  | .reg k => .next ((s.setReg8 k 0).putStatus s.dk.afterClr)
  | .mem m =>
    match s.write8 (s.ea m) 0 with
    | .ok t => .next ((t.putStatus s.dk.afterClr).stepSk m)
    | .error e => .fault e

/-- `INC x` (rule R222). -/
def execInc (x : Operand8) (s : State) : Host.Outcome State Fault Refusal :=
  rmw x s (fun v => v + 1) fun v t => t.putStatus (t.dk.afterInc8 v)

/-- `DEC x` (rule R223). -/
def execDec (x : Operand8) (s : State) : Host.Outcome State Fault Refusal :=
  rmw x s (fun v => v - 1) fun v t => t.putStatus (t.dk.afterDec8 v)

/-- `COM x` (rule R224). -/
def execCom (x : Operand8) (s : State) : Host.Outcome State Fault Refusal :=
  rmw x s (fun v => ~~~v) fun v t => t.putStatus (t.dk.sn8 (~~~v))

/-- `NEG x` (rule R225). -/
def execNeg (x : Operand8) (s : State) : Host.Outcome State Fault Refusal :=
  rmw x s (fun v => 0 - v) fun v t => t.putStatus (t.dk.sn8 (0 - v))

/-- `CLR N,x` (rule R226). -/
def execClrBit (n : BitVec 3) (x : Operand8) (s : State) : Host.Outcome State Fault Refusal :=
  rmw x s (fun v => v &&& ~~~bitMask n) fun v t => t.putStatus (t.dk.sn8 (v &&& ~~~bitMask n))

/-- `SET N,x` (rule R227). -/
def execSetBit (n : BitVec 3) (x : Operand8) (s : State) : Host.Outcome State Fault Refusal :=
  rmw x s (fun v => v ||| bitMask n) fun v t => t.putStatus (t.dk.sn8 (v ||| bitMask n))

end Sys2Proof.Machine
end

