-- ==== Sys2Proof/Machine/Shift.lean ====
section
/-! DEFINITION. The shift and rotate instructions (45_shift_rotate rules R290 to R295), by one position.
`s` is the state with PS already after the instruction (10_state rule R26). -/

namespace Sys2Proof.Machine

/-- `v[6:0] ++ cin` (rules R291, R294). -/
def shiftLeft (v : Byte) (cin : Bool) : Byte := v.extractLsb' 0 7 ++ BitVec.ofBool cin

/-- `cin ++ v[7:1]` (rules R292, R293, R295). -/
def shiftRight (v : Byte) (cin : Bool) : Byte := BitVec.ofBool cin ++ v.extractLsb' 1 7

/-- The flags of a shift with result `r`: E the bit shifted out, S and N from `r`, T and then Y
unspecified (rule R290). -/
def State.putShift (s : State) (out : Bool) (r : Byte) : State :=
  ((s.putStatus { s.dk.sn8 r with e := out }).drawFlag .t).drawFlag .y

/-- `LSL x` (rule R291). -/
def execLsl (x : Operand8) (s : State) : Host.Outcome State Fault Refusal :=
  rmw x s (fun v => shiftLeft v false) fun v t => t.putShift v.msb (shiftLeft v false)

/-- `LSR x` (rule R292). -/
def execLsr (x : Operand8) (s : State) : Host.Outcome State Fault Refusal :=
  rmw x s (fun v => shiftRight v false) fun v t =>
    t.putShift (v.getLsbD 0) (shiftRight v false)

/-- `ASR x` (rule R293). -/
def execAsr (x : Operand8) (s : State) : Host.Outcome State Fault Refusal :=
  rmw x s (fun v => shiftRight v v.msb) fun v t => t.putShift (v.getLsbD 0) (shiftRight v v.msb)

/-- `ROL x`, through the old E (rules R290, R294). -/
def execRol (x : Operand8) (s : State) : Host.Outcome State Fault Refusal :=
  rmw x s (fun v => shiftLeft v s.dk.e) fun v t => t.putShift v.msb (shiftLeft v s.dk.e)

/-- `ROR x`, through the old E (rules R290, R295). -/
def execRor (x : Operand8) (s : State) : Host.Outcome State Fault Refusal :=
  rmw x s (fun v => shiftRight v s.dk.e) fun v t =>
    t.putShift (v.getLsbD 0) (shiftRight v s.dk.e)

end Sys2Proof.Machine
end

