-- ==== Sys2Proof/Machine/System.lean ====
section
/-! DEFINITION. OPERATION INSTRUCTIONS (44_operation_instructions rules R260 to R272). `s` is the state
with PS already after the instruction (10_state rule R26). -/

namespace Sys2Proof.Machine

/-- `CLR flag` (rule R260). -/
def execClrFlag (f : Flag) (s : State) : Host.Outcome State Fault Refusal :=
  .next (s.putFlag f false)

/-- `SET flag` (rule R261). -/
def execSetFlag (f : Flag) (s : State) : Host.Outcome State Fault Refusal :=
  .next (s.putFlag f true)

/-- `INC Kii` (rule R262). -/
def execInc16 (k : Reg16) (s : State) : Host.Outcome State Fault Refusal :=
  .next ((s.setReg16 k (s.reg16 k + 1)).putStatus (s.dk.afterInc16 (s.reg16 k)))

/-- `DEC Kii` (rule R263). -/
def execDec16 (k : Reg16) (s : State) : Host.Outcome State Fault Refusal :=
  .next ((s.setReg16 k (s.reg16 k - 1)).putStatus (s.dk.afterDec16 (s.reg16 k)))

/-- `DAA Ai`: the open function DAA_FN of Ai, Y and E; Y and E become 0 (rule R264, log 8). -/
def execDaa (d : Acc) (s : State) : Host.Outcome State Fault Refusal :=
  .next ((s.setReg8 (accReg d) (Config.daaFn (s.reg8 (accReg d)) s.dk.y s.dk.e)).putStatus
    { s.dk with y := false, e := false })

/-- `PSH Ai` (rule R265). -/
def execPsh (k : Acc) (s : State) : Host.Outcome State Fault Refusal :=
  finish (s.push8 (s.reg8 (accReg k)))

/-- `PUL Ai` (rule R266). -/
def execPul (d : Acc) (s : State) : Host.Outcome State Fault Refusal :=
  match s.pull8 with
  | .ok (v, t) => .next ((t.setReg8 (accReg d) v).putStatus (s.dk.sn8 v))
  | .error e => .fault e

/-- `EIN` (rule R267). -/
def execEin (s : State) : Host.Outcome State Fault Refusal := .next (s.putK kEnabling)

/-- `DIN` (rule R268). -/
def execDin (s : State) : Host.Outcome State Fault Refusal := .next (s.putK !kEnabling)

/-- `NOP` (rule R269). -/
def execNop (s : State) : Host.Outcome State Fault Refusal := .next s

/-- `RTS` (rule R270). -/
def execRts (s : State) : Host.Outcome State Fault Refusal :=
  match s.pull16 with
  | .ok (v, t) => .next (t.jump v)
  | .error e => .fault e

/-- `RTI` (rules R271, R388). -/
def execRti (s : State) : Host.Outcome State Fault Refusal := finish s.trapReturn

/-- `INT`: trap entry with the address after INT as return address, whatever K is (rules R272, R386). -/
def execInt (s : State) : Host.Outcome State Fault Refusal :=
  finish (s.trapEntry s.ps Config.intEntry)

end Sys2Proof.Machine
end

