-- ==== Sys2Proof/Machine/Transfer.lean ====
section
/-! DEFINITION. The transfer instructions (41_transfer rules R170 to R180). `s` is the state with PS
already after the instruction (10_state rule R26). -/

namespace Sys2Proof.Machine

/-- `x[Ki] <- v` by an 8-bit MOV or LDA; S and N are written only under XFER8_SETS_SN (rules R170, R171,
R174). -/
def State.load8 (s : State) (k : Reg8) (v : Byte) : State :=
  if xfer8SetsSN then (s.setReg8 k v).putStatus (s.dk.sn8 v) else s.setReg8 k v

/-- `x[Kii] <- v` by a 16-bit MOV or LDA, which writes S and N (rules R177, R179). -/
def State.load16 (s : State) (k : Reg16) (v : Word) : State :=
  (s.setReg16 k v).putStatus (s.dk.sn16 v)

/-- The nibbles exchanged: `v[3:0] ++ v[7:4]` (rule R173). -/
def swapNibbles (v : Byte) : Byte := v.extractLsb' 0 4 ++ v.extractLsb' 4 4

/-- The destination is SK and the method steps SK: the one combination in which the register write and
the step meet (rule R71). -/
def loadsAndStepsSk : Reg16 → Src16 → Bool
  | .sk, .mem (.incremental _ _) => true
  | .sk, .mem (.decremental _ _) => true
  | _, _ => false

/-- `MOV Ki,Kj` (rule R171). -/
def execMov8 (ki kj : Reg8) (s : State) : Host.Outcome State Fault Refusal :=
  .next (s.load8 ki (s.reg8 kj))

/-- `EXC Ki,Kj` (rule R172). -/
def execExc8 (ki kj : Reg8) (s : State) : Host.Outcome State Fault Refusal :=
  .next ((s.setReg8 ki (s.reg8 kj)).setReg8 kj (s.reg8 ki))

/-- `CHN Ki` (rule R173). -/
def execChn (k : Reg8) (s : State) : Host.Outcome State Fault Refusal :=
  .next (s.setReg8 k (swapNibbles (s.reg8 k)))

/-- `LDA Ki,x` (rule R174). -/
def execLda8 (k : Reg8) (x : Src8) (s : State) : Host.Outcome State Fault Refusal :=
  withSrc8 x s fun v s => s.load8 k v

/-- `STR Ki,m` (rule R175). -/
def execStr8 (k : Reg8) (m : Mem) (s : State) : Host.Outcome State Fault Refusal :=
  store8 m (s.reg8 k) s

/-- `STR V,<adr>` (rule R176). -/
def execStrImm (v : Byte) (adr : Word) (s : State) : Host.Outcome State Fault Refusal :=
  finish (s.write8 adr v)

/-- `MOV Kii,Kjj` (rule R177). -/
def execMov16 (kii kjj : Reg16) (s : State) : Host.Outcome State Fault Refusal :=
  .next (s.load16 kii (s.reg16 kjj))

/-- `EXC Kii,Kjj` (rule R178). -/
def execExc16 (kii kjj : Reg16) (s : State) : Host.Outcome State Fault Refusal :=
  .next ((s.setReg16 kii (s.reg16 kjj)).setReg16 kjj (s.reg16 kii))

/-- `LDA Kii,x`; SK loaded by method R or Z has no meaning (rules R71, R179). -/
def execLda16 (k : Reg16) (x : Src16) (s : State) : Host.Outcome State Fault Refusal :=
  if loadsAndStepsSk k x then .fault (.unspecifiedCombination (.instruction (.lda16 k x)))
  else withSrc16 x s fun v s => s.load16 k v

/-- `STR Kii,m`: the stored value is the register before the step of SK (rules R71, R180). -/
def execStr16 (k : Reg16) (m : Mem) (s : State) : Host.Outcome State Fault Refusal :=
  store16 m (s.reg16 k) s

end Sys2Proof.Machine
end

