-- ==== Sys2Proof/Machine/Dispatch.lean ====
section
/-! DEFINITION. One arm for each constructor of Instr: the instruction's meaning (30_encoding rule R100). -/

namespace Sys2Proof.Machine

def exec (i : Instr) (s : State) : Host.Outcome State Fault Refusal :=
  match i with
  | .add8 d x => Sys2Proof.Machine.execAdd8 d x s
  | .adc d x => Sys2Proof.Machine.execAdc d x s
  | .sub8 d x => Sys2Proof.Machine.execSub8 d x s
  | .sue d x => Sys2Proof.Machine.execSue d x s
  | .add16 x => Sys2Proof.Machine.execAdd16 x s
  | .sub16 x => Sys2Proof.Machine.execSub16 x s
  | .mul x => Sys2Proof.Machine.execMul x s
  | .div x => Sys2Proof.Machine.execDiv x s
  | .mov8 ki kj => Sys2Proof.Machine.execMov8 ki kj s
  | .exc8 ki kj => Sys2Proof.Machine.execExc8 ki kj s
  | .chn k => Sys2Proof.Machine.execChn k s
  | .lda8 k x => Sys2Proof.Machine.execLda8 k x s
  | .str8 k m => Sys2Proof.Machine.execStr8 k m s
  | .strImm v adr => Sys2Proof.Machine.execStrImm v adr s
  | .mov16 kii kjj => Sys2Proof.Machine.execMov16 kii kjj s
  | .exc16 kii kjj => Sys2Proof.Machine.execExc16 kii kjj s
  | .lda16 k x => Sys2Proof.Machine.execLda16 k x s
  | .str16 k m => Sys2Proof.Machine.execStr16 k m s
  | .and d x => Sys2Proof.Machine.execAnd d x s
  | .or d x => Sys2Proof.Machine.execOr d x s
  | .xor d x => Sys2Proof.Machine.execXor d x s
  | .clr x => Sys2Proof.Machine.execClr x s
  | .inc x => Sys2Proof.Machine.execInc x s
  | .dec x => Sys2Proof.Machine.execDec x s
  | .com x => Sys2Proof.Machine.execCom x s
  | .neg x => Sys2Proof.Machine.execNeg x s
  | .clrBit n x => Sys2Proof.Machine.execClrBit n x s
  | .setBit n x => Sys2Proof.Machine.execSetBit n x s
  | .clrFlag f => Sys2Proof.Machine.execClrFlag f s
  | .setFlag f => Sys2Proof.Machine.execSetFlag f s
  | .inc16 k => Sys2Proof.Machine.execInc16 k s
  | .dec16 k => Sys2Proof.Machine.execDec16 k s
  | .daa d => Sys2Proof.Machine.execDaa d s
  | .psh k => Sys2Proof.Machine.execPsh k s
  | .pul d => Sys2Proof.Machine.execPul d s
  | .ein => Sys2Proof.Machine.execEin s
  | .din => Sys2Proof.Machine.execDin s
  | .nop => Sys2Proof.Machine.execNop s
  | .rts => Sys2Proof.Machine.execRts s
  | .rti => Sys2Proof.Machine.execRti s
  | .int => Sys2Proof.Machine.execInt s
  | .lsl x => Sys2Proof.Machine.execLsl x s
  | .lsr x => Sys2Proof.Machine.execLsr x s
  | .asr x => Sys2Proof.Machine.execAsr x s
  | .rol x => Sys2Proof.Machine.execRol x s
  | .ror x => Sys2Proof.Machine.execRor x s
  | .cmp8 k x => Sys2Proof.Machine.execCmp8 k x s
  | .cmp16 k x => Sys2Proof.Machine.execCmp16 k x s
  | .bit k x => Sys2Proof.Machine.execBit k x s
  | .bra step => Sys2Proof.Machine.execBra step s
  | .jmp adr => Sys2Proof.Machine.execJmp adr s
  | .jmc f adr => Sys2Proof.Machine.execJmc f adr s
  | .beq step => Sys2Proof.Machine.execBeq step s
  | .bne step => Sys2Proof.Machine.execBne step s
  | .bgt step => Sys2Proof.Machine.execBgt step s
  | .bge step => Sys2Proof.Machine.execBge step s
  | .bls step => Sys2Proof.Machine.execBls step s
  | .bhi step => Sys2Proof.Machine.execBhi step s
  | .bhe step => Sys2Proof.Machine.execBhe step s
  | .blo step => Sys2Proof.Machine.execBlo step s
  | .bio step => Sys2Proof.Machine.execBio step s
  | .bno step => Sys2Proof.Machine.execBno step s
  | .bic step => Sys2Proof.Machine.execBic step s
  | .bnc step => Sys2Proof.Machine.execBnc step s
  | .bih step => Sys2Proof.Machine.execBih step s
  | .bnh step => Sys2Proof.Machine.execBnh step s
  | .bsr step => Sys2Proof.Machine.execBsr step s
  | .jsr adr => Sys2Proof.Machine.execJsr adr s
  | .bscRel f step => Sys2Proof.Machine.execBscRel f step s
  | .bscAbs f adr => Sys2Proof.Machine.execBscAbs f adr s
  | .dbnzReg k step => Sys2Proof.Machine.execDbnzReg k step s
  | .dbnzMem step adr => Sys2Proof.Machine.execDbnzMem step adr s

end Sys2Proof.Machine
end

