-- ==== Sys2Proof/WellFormed.lean ====
section
/-! DEFINITION. Which terms of `Instr` are instructions of the machine: the operand forms each
operation lists (30_encoding rule R111; an operation and method pair with no row is not an
instruction, rule R110) and the flags each flag field has a code for (rules R91, R94, R95). -/

namespace Sys2Proof

/-- Every memory method but Y (rule R111: ADD8, ADC, SUB8, ADD16, SUB16, CMP8, CMP16, BIT). -/
def Mem.notIndexedYg : Mem → Bool
  | .indexedYg _ => false
  | _ => true

/-- Every memory method but U and Y (rule R111: DIV). -/
def Mem.notIndirectSkOrYg : Mem → Bool
  | .indirectSk _ => false
  | .indexedYg _ => false
  | _ => true

/-- The memory method of a source operand, if it has one, satisfies `p`. -/
def Src8.memAll (p : Mem → Bool) : Src8 → Bool
  | .mem m => p m
  | _ => true

/-- The memory method of a source operand, if it has one, satisfies `p`. -/
def Src16.memAll (p : Mem → Bool) : Src16 → Bool
  | .mem m => p m
  | _ => true

/-- Every source but a register (rule R111: LDA8 has no method L). -/
def Src8.notReg : Src8 → Bool
  | .reg _ => false
  | _ => true

/-- Every source but a register (rule R111: LDA16 has no method L). -/
def Src16.notReg : Src16 → Bool
  | .reg _ => false
  | _ => true

/-- The flags with a code in JMC and in both forms of BSC: Y has none (rules R94, R95). -/
def Flag.notY : Flag → Bool
  | .y => false
  | _ => true

/-- The term is an instruction of the machine: some row of the opcode table encodes it. -/
def Instr.wf : Instr → Bool
  | .add8 _ x => x.memAll Mem.notIndexedYg
  | .adc _ x => x.memAll Mem.notIndexedYg
  | .sub8 _ x => x.memAll Mem.notIndexedYg
  | .sue _ _ => true
  | .add16 x => x.memAll Mem.notIndexedYg
  | .sub16 x => x.memAll Mem.notIndexedYg
  | .mul _ => true
  | .div x => x.memAll Mem.notIndirectSkOrYg
  | .mov8 _ _ => true
  | .exc8 _ _ => true
  | .chn _ => true
  | .lda8 _ x => x.notReg
  | .str8 _ _ => true
  | .strImm _ _ => true
  | .mov16 _ _ => true
  | .exc16 _ _ => true
  | .lda16 _ x => x.notReg
  | .str16 _ _ => true
  | .and _ _ => true
  | .or _ _ => true
  | .xor _ _ => true
  | .clr _ => true
  | .inc _ => true
  | .dec _ => true
  | .com _ => true
  | .neg _ => true
  | .clrBit _ _ => true
  | .setBit _ _ => true
  | .clrFlag _ => true
  | .setFlag _ => true
  | .inc16 _ => true
  | .dec16 _ => true
  | .daa _ => true
  | .psh _ => true
  | .pul _ => true
  | .ein => true
  | .din => true
  | .nop => true
  | .rts => true
  | .rti => true
  | .int => true
  | .lsl _ => true
  | .lsr _ => true
  | .asr _ => true
  | .rol _ => true
  | .ror _ => true
  | .cmp8 _ x => x.memAll Mem.notIndexedYg
  | .cmp16 _ x => x.memAll Mem.notIndexedYg
  | .bit _ x => x.memAll Mem.notIndexedYg
  | .bra _ => true
  | .jmp _ => true
  | .jmc f _ => f.notY
  | .beq _ => true
  | .bne _ => true
  | .bgt _ => true
  | .bge _ => true
  | .bls _ => true
  | .bhi _ => true
  | .bhe _ => true
  | .blo _ => true
  | .bio _ => true
  | .bno _ => true
  | .bic _ => true
  | .bnc _ => true
  | .bih _ => true
  | .bnh _ => true
  | .bsr _ => true
  | .jsr _ => true
  | .bscRel f _ => f.notY
  | .bscAbs f _ => f.notY
  | .dbnzReg _ _ => true
  | .dbnzMem _ _ => true

end Sys2Proof
end

