-- ==== Sys2Proof/Decode.lean ====
section
/-! DEFINITION. The decoder (30_encoding rules R97 to R101, R110), total on any bytes and rejecting by
name, and after it the encoder, both written from rules R87 to R96 and the first-byte map R99. -/

namespace Sys2Proof

open Machine

/-! ### Register codes: the parameters REG8_CODE and REG16_CODE at their default (rules R7, R23, R87) -/

/-- `REG8_CODE` (rules R7, R23). -/
def reg8Code : Reg8 → BitVec 3
  | .a => 0
  | .b => 1
  | .c => 2
  | .d => 3

/-- The 8-bit register of a code; codes 100 to 111 name none (rules R23, R110). -/
def reg8OfCode (c : BitVec 3) : Option Reg8 :=
  match c.toNat with
  | 0 => some .a
  | 1 => some .b
  | 2 => some .c
  | 3 => some .d
  | _ => none

/-- The code of an accumulator (rules R23, R87). -/
def accCode : Acc → BitVec 3
  | .a => 0
  | .b => 1

/-- The accumulator of a code; an `Ai` field accepts A and B only (rules R23, R110). -/
def accOfCode (c : BitVec 3) : Option Acc :=
  match c.toNat with
  | 0 => some .a
  | 1 => some .b
  | _ => none

/-- `REG16_CODE` (rules R7, R23). -/
def reg16Code : Reg16 → BitVec 3
  | .ab => 0
  | .cd => 1
  | .sk => 2
  | .yg => 3

/-- The 16-bit register of a code; codes 100 to 111 name none (rules R23, R110). -/
def reg16OfCode (c : BitVec 3) : Option Reg16 :=
  match c.toNat with
  | 0 => some .ab
  | 1 => some .cd
  | 2 => some .sk
  | 3 => some .yg
  | _ => none

/-- The field printed as the fixed name "AB" or "A": code 000 (rules R23, R87). -/
def fixedOfCode (c : BitVec 3) : Option Unit :=
  match c.toNat with
  | 0 => some ()
  | _ => none

/-- The flag codes of CLR flag, SET flag and the relative BSC: E 000, Y 001, N 010, S 011, T 100 (rules
R91, R95). -/
def flagCode : Flag → BitVec 3
  | .e => 0
  | .y => 1
  | .n => 2
  | .s => 3
  | .t => 4

/-- The flag of a code of CLR flag and SET flag (rule R91). -/
def flagOfCode (c : BitVec 3) : Option Flag :=
  match c.toNat with
  | 0 => some .e
  | 1 => some .y
  | 2 => some .n
  | 3 => some .s
  | 4 => some .t
  | _ => none

/-- The flag codes of JMC and of BSC with an address: E 000, N 010, S 011, T 110; Y has none (rule
R94). -/
def flagAdrCode : Flag → BitVec 3
  | .e => 0
  | .y => 1
  | .n => 2
  | .s => 3
  | .t => 6

/-- The flag of a code of JMC and of BSC with an address (rule R94). -/
def flagAdrOfCode (c : BitVec 3) : Option Flag :=
  match c.toNat with
  | 0 => some .e
  | 2 => some .n
  | 3 => some .s
  | 6 => some .t
  | _ => none

/-! ### Addressing methods (rule R88) -/

/-- The addressing methods a second byte can select (rule R88). -/
inductive Method where
  | v | d | k | s | r | z | u | y
deriving DecidableEq, Repr

/-- The method codes of rule R88. -/
def methodOfCode (c : BitVec 3) : Method :=
  match c.toNat with
  | 0 => .v
  | 1 => .d
  | 2 => .k
  | 3 => .s
  | 4 => .r
  | 5 => .z
  | 6 => .u
  | _ => .y

/-- Methods of ADD8, ADC, SUB8, ADD16, SUB16, CMP8, CMP16, BIT besides L (rule R111). -/
def methodsToU : List Method := [.v, .d, .k, .s, .r, .z, .u]

/-- Methods of SUE, MUL, AND, OR, XOR besides L, and all methods of LDA (rule R111). -/
def methodsAll : List Method := [.v, .d, .k, .s, .r, .z, .u, .y]

/-- Methods of DIV besides L (rule R111). -/
def methodsToZ : List Method := [.v, .d, .k, .s, .r, .z]

/-- The memory methods: those of STR, and of the single-operand and shift instructions besides L (rule
R111). -/
def methodsMem : List Method := [.d, .k, .s, .r, .z, .u, .y]

/-! ### Decoding -/

/-- Why a byte string is not an instruction (rule R110). -/
inductive Illegal where
  /-- the first byte begins no row (rule R99) -/
  | firstByte
  /-- no row with this first byte has this second byte -/
  | secondByte
  /-- a register byte of the OPERATION - I formats above 3 (rule R92) -/
  | registerByte
  /-- a bit-number byte above 7 (rule R92) -/
  | bitByte
deriving DecidableEq, Repr

/-- What the bytes fetched so far say (rule R101): an instruction of `len` bytes, nothing yet, or that
they begin no instruction. -/
inductive Decoded where
  | done (i : Instr) (len : Nat)
  | more
  | illegal (why : Illegal)
deriving DecidableEq, Repr

/-- `m2 m1 m0` of a memory-form second byte (rule R88), and the top bits of the other second bytes. -/
def field75 (b : Byte) : BitVec 3 := b.extractLsb' 5 3

/-- Bits 5 to 3: the first register of a two-register second byte (rule R89). -/
def field53 (b : Byte) : BitVec 3 := b.extractLsb' 3 3

/-- Bits 2 to 0: the register, flag or bit-number field (rules R87, R91, R92). -/
def field20 (b : Byte) : BitVec 3 := b.extractLsb' 0 3

/-- Bits 7 to 3: the fixed bits above a three-bit field. -/
def field73 (b : Byte) : BitVec 5 := b.extractLsb' 3 5

/-- The operand bytes of a memory method, in `bs` after the first `base` bytes of the instruction (rules
R62 to R68, R88). -/
def decodeMem (m : Method) (base : Nat) (mk : Mem → Instr) (bs : List Byte) : Decoded :=
  match m with
  | .v => .illegal .secondByte
  | .d =>
    match bs with
    | h :: l :: _ => .done (mk (.direct (word h l))) (base + 2)
    | _ => .more
  | .k => .done (mk .indirect) base
  | .s =>
    match bs with
    | o :: _ => .done (mk (.indexed o)) (base + 1)
    | _ => .more
  | .r =>
    match bs with
    | o :: r :: _ => .done (mk (.incremental o r)) (base + 2)
    | _ => .more
  | .z =>
    match bs with
    | o :: r :: _ => .done (mk (.decremental o r)) (base + 2)
    | _ => .more
  | .u =>
    match bs with
    | o :: _ => .done (mk (.indirectSk o)) (base + 1)
    | _ => .more
  | .y =>
    match bs with
    | o :: _ => .done (mk (.indexedYg o)) (base + 1)
    | _ => .more

/-- The operand of an 8-bit source in memory or immediate form (rules R60, R88). -/
def decodeSrc8 (m : Method) (mk : Src8 → Instr) (bs : List Byte) : Decoded :=
  match m with
  | .v =>
    match bs with
    | v :: _ => .done (mk (.imm v)) 3
    | _ => .more
  | m => decodeMem m 2 (fun x => mk (.mem x)) bs

/-- The operand of a 16-bit source in memory or immediate form, Data(H) before Data(L) (rules R50, R60,
R88). -/
def decodeSrc16 (m : Method) (mk : Src16 → Instr) (bs : List Byte) : Decoded :=
  match m with
  | .v =>
    match bs with
    | h :: l :: _ => .done (mk (.imm (word h l))) 4
    | _ => .more
  | m => decodeMem m 2 (fun x => mk (.mem x)) bs

/-- The bits of a second byte that follow the method code are `00` and then a register code (rule R88):
the register the code names under `reg`, if the method is one of `ms` (rule R111). -/
def methodByte {α : Type} (ms : List Method) (reg : BitVec 3 → Option α) (b : Byte) :
    Option (Method × α) :=
  let m := methodOfCode (field75 b)
  if (b.extractLsb' 3 2 : BitVec 2) = 0 ∧ m ∈ ms then (reg (field20 b)).map (fun r => (m, r))
  else none

/-- Memory or immediate form of an 8-bit two-operand instruction (rule R88). -/
def decodeRegSrc8 {α : Type} (ms : List Method) (reg : BitVec 3 → Option α)
    (mk : α → Src8 → Instr) (bs : List Byte) : Decoded :=
  match bs with
  | [] => .more
  | b2 :: rest =>
    match methodByte ms reg b2 with
    | some (m, r) => decodeSrc8 m (mk r) rest
    | none => .illegal .secondByte

/-- Memory or immediate form of a 16-bit two-operand instruction (rule R88). -/
def decodeRegSrc16 {α : Type} (ms : List Method) (reg : BitVec 3 → Option α)
    (mk : α → Src16 → Instr) (bs : List Byte) : Decoded :=
  match bs with
  | [] => .more
  | b2 :: rest =>
    match methodByte ms reg b2 with
    | some (m, r) => decodeSrc16 m (mk r) rest
    | none => .illegal .secondByte

/-- A store (rules R88, R175, R180). -/
def decodeStore {α : Type} (reg : BitVec 3 → Option α) (mk : α → Mem → Instr) (bs : List Byte) :
    Decoded :=
  match bs with
  | [] => .more
  | b2 :: rest =>
    match methodByte methodsMem reg b2 with
    | some (m, r) => decodeMem m 2 (mk r) rest
    | none => .illegal .secondByte

/-- Two-register form `00 ddd sss` (rule R89). -/
def decodeRegReg {α β : Type} (reg1 : BitVec 3 → Option α) (reg2 : BitVec 3 → Option β)
    (mk : α → β → Instr) (bs : List Byte) : Decoded :=
  match bs with
  | [] => .more
  | b2 :: _ =>
    if (b2.extractLsb' 6 2 : BitVec 2) = 0 then
      match reg1 (field53 b2), reg2 (field20 b2) with
      | some r1, some r2 => .done (mk r1 r2) 2
      | _, _ => .illegal .secondByte
    else .illegal .secondByte

/-- A second byte made of the fixed bits `top` and a three-bit field: the one-register forms
`01000 kkk` (rule R90), the flag forms `10000 fff` (rule R91). -/
def decodeField {α : Type} (top : BitVec 5) (reg : BitVec 3 → Option α) (mk : α → Instr)
    (bs : List Byte) : Decoded :=
  match bs with
  | [] => .more
  | b2 :: _ =>
    if field73 b2 = top then
      match reg (field20 b2) with
      | some r => .done (mk r) 2
      | none => .illegal .secondByte
    else .illegal .secondByte

/-- A register byte `000000kk` of the OPERATION - I formats, the last of `len` bytes (rule R92). -/
def decodeRegByte (b : Byte) (mk : Reg8 → Instr) (len : Nat) : Decoded :=
  if field73 b = 0 then
    match reg8OfCode (field20 b) with
    | some k => .done (mk k) len
    | none => .illegal .registerByte
  else .illegal .registerByte

/-- Register form of CLR, INC, DEC, COM, NEG: the second byte repeats the first (rule R92). -/
def decodeOneReg (b1 : Byte) (mk : Operand8 → Instr) (bs : List Byte) : Decoded :=
  match bs with
  | [] => .more
  | b2 :: rest =>
    if b2 = b1 then
      match rest with
      | [] => .more
      | b3 :: _ => decodeRegByte b3 (fun k => mk (.reg k)) 3
    else .illegal .secondByte

/-- The method of a memory-form second byte with the fixed low bits `low` (rules R92, R93). -/
def methodLow (low : BitVec 5) (b : Byte) : Option Method :=
  let m := methodOfCode (field75 b)
  if (b.extractLsb' 0 5 : BitVec 5) = low ∧ m ∈ methodsMem then some m else none

/-- Memory form of CLR, INC, DEC, COM, NEG: second byte `mmm01011` for all five (rule R92). -/
def decodeOneMem (mk : Operand8 → Instr) (bs : List Byte) : Decoded :=
  match bs with
  | [] => .more
  | b2 :: rest =>
    match methodLow 0b01011 b2 with
    | some m => decodeMem m 2 (fun x => mk (.mem x)) rest
    | none => .illegal .secondByte

/-- A bit-number byte `00000nnn` (rule R92). -/
def bitNumber (b : Byte) : Option (BitVec 3) := if field73 b = 0 then some (field20 b) else none

/-- Register form of CLR N,x and SET N,x: the first byte with bit 7 set, the bit number, the register
(rule R92). -/
def decodeBitReg (second : Byte) (mk : BitVec 3 → Operand8 → Instr) (bs : List Byte) : Decoded :=
  match bs with
  | [] => .more
  | b2 :: rest =>
    if b2 = second then
      match rest with
      | b3 :: b4 :: _ =>
        match bitNumber b3 with
        | some n => decodeRegByte b4 (fun k => mk n (.reg k)) 4
        | none => .illegal .bitByte
      | _ => .more
    else .illegal .secondByte

/-- What `decodeMem` answers, unless the bit-number byte is above 7 (rule R101: the remaining bytes are
fetched before their fixed bits are checked). -/
def checkBit (n : Option (BitVec 3)) (r : BitVec 3 → Decoded) : Decoded :=
  match n with
  | some n => r n
  | none =>
    match r 0 with
    | .more => .more
    | _ => .illegal .bitByte

/-- Memory form of CLR N,x and SET N,x: second byte `mmm01110` for both, then the bit number (rule
R92). -/
def decodeBitMem (mk : BitVec 3 → Operand8 → Instr) (bs : List Byte) : Decoded :=
  match bs with
  | [] => .more
  | b2 :: rest =>
    match methodLow 0b01110 b2 with
    | some m =>
      match rest with
      | [] => .more
      | b3 :: rest =>
        checkBit (bitNumber b3) (fun n => decodeMem m 3 (fun x => mk n (.mem x)) rest)
    | none => .illegal .secondByte

/-- The method of a memory-form second byte of a shift or rotate, as printed (rule R93). -/
def shiftMethod (b : Byte) : Option Method :=
  match b.toNat with
  | 0b00010100 => some .d
  | 0b01000100 => some .k
  | 0b01100100 => some .s
  | 0b10000100 => some .r
  | 0b10100100 => some .z
  | 0b11000100 => some .u
  | 0b11100100 => some .y
  | _ => none

/-- Memory form of a shift or rotate (rule R93). -/
def decodeShiftMem (mk : Operand8 → Instr) (bs : List Byte) : Decoded :=
  match bs with
  | [] => .more
  | b2 :: rest =>
    match shiftMethod b2 with
    | some m => decodeMem m 2 (fun x => mk (.mem x)) rest
    | none => .illegal .secondByte

/-- Register form of a shift or rotate: `010000kk` for LSL, `010001kk` for the others; `mid` is bit 2
(rule R93). -/
def decodeShiftReg (mid : BitVec 1) (mk : Operand8 → Instr) (bs : List Byte) : Decoded :=
  match bs with
  | [] => .more
  | b2 :: _ =>
    if field73 b2 = 0b01000 ∧ (b2.extractLsb' 2 1 : BitVec 1) = mid then
      match reg8OfCode ((b2.extractLsb' 0 2 : BitVec 2).setWidth 3) with
      | some k => .done (mk (.reg k)) 2
      | none => .illegal .secondByte
    else .illegal .secondByte

/-- An address operand after the second byte: the instruction is four bytes (rules R50, R94). -/
def decodeAdr (mk : Word → Instr) (bs : List Byte) : Decoded :=
  match bs with
  | h :: l :: _ => .done (mk (word h l)) 4
  | _ => .more

/-- JMP and JSR, second byte `00101000`; another second byte is for `other`, the operation that shares
the first byte (rules R94, R98). -/
def decodeJump (mk : Word → Instr) (other : List Byte → Decoded) (bs : List Byte) : Decoded :=
  match bs with
  | [] => .more
  | b2 :: rest => if b2 = 0b00101000 then decodeAdr mk rest else other bs

/-- JMC and BSC with an address, second byte `00111 fff`; another second byte is for `other` (rules R94,
R98). -/
def decodeFlagJump (mk : Flag → Word → Instr) (other : List Byte → Decoded) (bs : List Byte) :
    Decoded :=
  match bs with
  | [] => .more
  | b2 :: rest =>
    if field73 b2 = 0b00111 then
      match flagAdrOfCode (field20 b2) with
      | some f => decodeAdr (mk f) rest
      | none => .illegal .secondByte
    else other bs

/-- A relative instruction: one byte "Step count" (rule R95). -/
def decodeRel (mk : Byte → Instr) (bs : List Byte) : Decoded :=
  match bs with
  | [] => .more
  | p :: _ => .done (mk p) 2

/-- `STR`: second byte `00000100` is the immediate-to-memory form, five bytes, Data before the address
(rules R70, R97, R176). -/
def decodeStr8 (bs : List Byte) : Decoded :=
  match bs with
  | [] => .more
  | b2 :: rest =>
    if b2 = 0b00000100 then
      match rest with
      | v :: h :: l :: _ => .done (.strImm v (word h l)) 5
      | _ => .more
    else decodeStore reg8OfCode .str8 bs

/-- `ADC Ai,Ki` and `CHN Ki` share a first byte; bits 7 and 6 of the second byte separate them (rule
R98). -/
def decodeAdcRegOrChn (bs : List Byte) : Decoded :=
  match bs with
  | [] => .more
  | b2 :: _ =>
    if (b2.extractLsb' 6 2 : BitVec 2) = 0 then
      decodeRegReg accOfCode reg8OfCode (fun d k => .adc d (.reg k)) bs
    else decodeField 0b01000 reg8OfCode .chn bs

/-- `CMP Ki,Kj` and `SET flag` share a first byte; bits 7 and 6 of the second byte separate them (rule
R98). -/
def decodeCmpRegOrSetFlag (bs : List Byte) : Decoded :=
  match bs with
  | [] => .more
  | b2 :: _ =>
    if (b2.extractLsb' 6 2 : BitVec 2) = 0 then
      decodeRegReg reg8OfCode reg8OfCode (fun k x => .cmp8 k (.reg x)) bs
    else decodeField 0b10000 flagOfCode .setFlag bs

/-- `DBNZ Ki,V`: `010000kk`, then the step (rule R352). -/
def decodeDbnzReg (bs : List Byte) : Decoded :=
  match bs with
  | [] => .more
  | b2 :: rest =>
    if field73 b2 = 0b01000 then
      match reg8OfCode (field20 b2) with
      | some k =>
        match rest with
        | p :: _ => .done (.dbnzReg k p) 3
        | [] => .more
      | none => .illegal .secondByte
    else .illegal .secondByte

/-- `DBNZ <Adr>,V`: the step before the address (rule R353). -/
def decodeDbnzMem (bs : List Byte) : Decoded :=
  match bs with
  | p :: h :: l :: _ => .done (.dbnzMem p (word h l)) 4
  | _ => .more

/-- The bytes after a first byte that begins an instruction (rule R99), `bs`, under that first byte. -/
def decodeRest (b1 : Byte) (bs : List Byte) : Decoded :=
  match b1.toNat with
  | 0x00 => decodeRegSrc8 methodsAll reg8OfCode .lda8 bs
  | 0x01 => decodeStr8 bs
  | 0x03 => decodeRegSrc8 methodsToU accOfCode .add8 bs
  | 0x04 => decodeRegSrc8 methodsToU accOfCode .adc bs
  | 0x05 => decodeRegSrc8 methodsToU accOfCode .sub8 bs
  | 0x06 => decodeRegSrc8 methodsAll accOfCode .sue bs
  | 0x07 => decodeRegSrc8 methodsAll fixedOfCode (fun _ => .mul) bs
  | 0x0B => decodeOneMem .clr bs
  | 0x0E => decodeBitMem .clrBit bs
  | 0x0F => decodeBitMem .setBit bs
  | 0x10 => decodeRegSrc8 methodsAll accOfCode .and bs
  | 0x11 => decodeRegSrc8 methodsAll accOfCode .or bs
  | 0x14 => decodeJump .jsr (decodeRegSrc8 methodsAll accOfCode .xor) bs
  | 0x15 => decodeFlagJump .bscAbs (fun _ => .illegal .secondByte) bs
  | 0x18 => decodeOneMem .inc bs
  | 0x19 => decodeOneMem .dec bs
  | 0x1A => decodeOneMem .com bs
  | 0x1B => decodeOneMem .neg bs
  | 0x1E => decodeJump .jmp (decodeRegSrc8 methodsToU reg8OfCode .cmp8) bs
  | 0x1F => decodeFlagJump .jmc (decodeRegSrc8 methodsToU reg8OfCode .bit) bs
  | 0x20 => decodeRegSrc16 methodsAll reg16OfCode .lda16 bs
  | 0x21 => decodeStore reg16OfCode .str16 bs
  | 0x23 => decodeRegSrc16 methodsToU fixedOfCode (fun _ => .add16) bs
  | 0x25 => decodeRegSrc16 methodsToU fixedOfCode (fun _ => .sub16) bs
  | 0x27 => decodeRegSrc8 methodsToZ fixedOfCode (fun _ => .div) bs
  | 0x2F => decodeShiftMem .lsl bs
  | 0x38 => decodeShiftMem .lsr bs
  | 0x39 => decodeShiftMem .asr bs
  | 0x3A => decodeShiftMem .rol bs
  | 0x3B => decodeShiftMem .ror bs
  | 0x3E => decodeRegSrc16 methodsToU reg16OfCode .cmp16 bs
  | 0x40 => decodeRegReg reg8OfCode reg8OfCode .mov8 bs
  | 0x41 => decodeRegReg reg8OfCode reg8OfCode .exc8 bs
  | 0x43 => decodeRegReg accOfCode reg8OfCode (fun d k => .add8 d (.reg k)) bs
  | 0x44 => decodeAdcRegOrChn bs
  | 0x45 => decodeRegReg accOfCode reg8OfCode (fun d k => .sub8 d (.reg k)) bs
  | 0x46 => decodeRegReg accOfCode reg8OfCode (fun d k => .sue d (.reg k)) bs
  | 0x47 => decodeRegReg fixedOfCode reg8OfCode (fun _ k => .mul (.reg k)) bs
  | 0x4B => decodeOneReg b1 .clr bs
  | 0x4E => decodeBitReg 0b11001110 .clrBit bs
  | 0x4F => decodeBitReg 0b11001111 .setBit bs
  | 0x50 => decodeRegReg accOfCode reg8OfCode (fun d k => .and d (.reg k)) bs
  | 0x51 => decodeRegReg accOfCode reg8OfCode (fun d k => .or d (.reg k)) bs
  | 0x54 => decodeRegReg accOfCode reg8OfCode (fun d k => .xor d (.reg k)) bs
  | 0x58 => decodeOneReg b1 .inc bs
  | 0x59 => decodeOneReg b1 .dec bs
  | 0x5A => decodeOneReg b1 .com bs
  | 0x5B => decodeOneReg b1 .neg bs
  | 0x5C => decodeField 0b10000 flagOfCode .clrFlag bs
  | 0x5E => decodeCmpRegOrSetFlag bs
  | 0x5F => decodeRegReg reg8OfCode reg8OfCode (fun k x => .bit k (.reg x)) bs
  | 0x60 => decodeRegReg reg16OfCode reg16OfCode .mov16 bs
  | 0x61 => decodeRegReg reg16OfCode reg16OfCode .exc16 bs
  | 0x63 => decodeRegReg fixedOfCode reg16OfCode (fun _ k => .add16 (.reg k)) bs
  | 0x65 => decodeRegReg fixedOfCode reg16OfCode (fun _ k => .sub16 (.reg k)) bs
  | 0x67 => decodeRegReg fixedOfCode reg8OfCode (fun _ k => .div (.reg k)) bs
  | 0x68 => decodeField 0b01000 accOfCode .daa bs
  | 0x6B => decodeField 0b01000 accOfCode .psh bs
  | 0x6E => decodeField 0b01000 accOfCode .pul bs
  | 0x6F => decodeShiftReg 0 .lsl bs
  | 0x70 => decodeField 0b01000 reg16OfCode .inc16 bs
  | 0x71 => decodeField 0b01000 reg16OfCode .dec16 bs
  | 0x78 => decodeShiftReg 1 .lsr bs
  | 0x79 => decodeShiftReg 1 .asr bs
  | 0x7A => decodeShiftReg 1 .rol bs
  | 0x7B => decodeShiftReg 1 .ror bs
  | 0x7E => decodeRegReg reg16OfCode reg16OfCode (fun k x => .cmp16 k (.reg x)) bs
  | 0x80 => decodeRel .bra bs
  | 0x81 => decodeRel .beq bs
  | 0x82 => decodeRel .bne bs
  | 0x83 => decodeRel .bgt bs
  | 0x84 => decodeRel .bge bs
  | 0x85 => decodeRel .bls bs
  | 0x86 => decodeRel .bhi bs
  | 0x87 => decodeRel .bhe bs
  | 0x88 => decodeRel .blo bs
  | 0x89 => decodeRel .bio bs
  | 0x8A => decodeRel .bno bs
  | 0x8B => decodeRel .bic bs
  | 0x8C => decodeRel .bnc bs
  | 0x8D => decodeRel .bih bs
  | 0x8E => decodeRel .bnh bs
  | 0x8F => decodeRel .bsr bs
  | 0x90 => decodeRel (.bscRel .e) bs
  | 0x92 => decodeRel (.bscRel .n) bs
  | 0x93 => decodeRel (.bscRel .s) bs
  | 0x94 => decodeRel (.bscRel .t) bs
  | 0xC0 => .done .ein 1
  | 0xC1 => .done .din 1
  | 0xC2 => .done .nop 1
  | 0xC3 => .done .int 1
  | 0xC6 => decodeDbnzReg bs
  | 0xC7 => decodeDbnzMem bs
  | 0xC8 => .done .rts 1
  | 0xC9 => .done .rti 1
  | _ => .illegal .firstByte

/-- The decode procedure of rule R101 on the bytes fetched so far. -/
def decode : List Byte → Decoded
  | [] => .more
  | b1 :: bs => decodeRest b1 bs

/-! ### Encoding (rules R87 to R96, R99) -/

/-- A second byte `mmm 00 rrr` (rule R88). -/
def methodRegByte (m r : BitVec 3) : Byte := m ++ (0 : BitVec 2) ++ r

/-- A second byte `00 ddd sss` (rule R89). -/
def regRegByte (d s : BitVec 3) : Byte := (0 : BitVec 2) ++ d ++ s

/-- A byte of five fixed bits and a three-bit field (rules R90 to R92, R94). -/
def fieldByte (top : BitVec 5) (f : BitVec 3) : Byte := top ++ f

/-- The method code of a memory operand (rule R88). -/
def memCode : Mem → BitVec 3
  | .direct _ => 1
  | .indirect => 2
  | .indexed _ => 3
  | .incremental _ _ => 4
  | .decremental _ _ => 5
  | .indirectSk _ => 6
  | .indexedYg _ => 7

/-- The operand bytes of a memory operand (rules R50, R88). -/
def memBytes : Mem → List Byte
  | .direct adr => [hi8 adr, lo8 adr]
  | .indirect => []
  | .indexed o => [o]
  | .incremental o r => [o, r]
  | .decremental o r => [o, r]
  | .indirectSk o => [o]
  | .indexedYg o => [o]

/-- The second byte of a memory-form shift or rotate, as printed (rule R93). -/
def shiftMemByte : Mem → Byte
  | .direct _ => 0b00010100
  | m => memCode m ++ (0b00100 : BitVec 5)

/-- An 8-bit two-operand instruction: first byte `mem` for memory and immediate, `reg` for a register
(rules R88, R89). -/
def encodeSrc8 (mem reg : Byte) (r : BitVec 3) : Src8 → List Byte
  | .imm v => [mem, methodRegByte 0 r, v]
  | .reg k => [reg, regRegByte r (reg8Code k)]
  | .mem m => mem :: methodRegByte (memCode m) r :: memBytes m

/-- A 16-bit two-operand instruction (rules R50, R88, R89). -/
def encodeSrc16 (mem reg : Byte) (r : BitVec 3) : Src16 → List Byte
  | .imm v => [mem, methodRegByte 0 r, hi8 v, lo8 v]
  | .reg k => [reg, regRegByte r (reg16Code k)]
  | .mem m => mem :: methodRegByte (memCode m) r :: memBytes m

/-- CLR, INC, DEC, COM, NEG (rule R92). -/
def encodeOne (mem reg : Byte) : Operand8 → List Byte
  | .reg k => [reg, reg, fieldByte 0 (reg8Code k)]
  | .mem m => mem :: (memCode m ++ (0b01011 : BitVec 5)) :: memBytes m

/-- CLR N,x and SET N,x (rule R92). -/
def encodeBit (mem reg second : Byte) (n : BitVec 3) : Operand8 → List Byte
  | .reg k => [reg, second, fieldByte 0 n, fieldByte 0 (reg8Code k)]
  | .mem m => mem :: (memCode m ++ (0b01110 : BitVec 5)) :: fieldByte 0 n :: memBytes m

/-- Shifts and rotates; `mid` is bit 2 of the register form's second byte (rule R93). -/
def encodeShift (mem reg : Byte) (mid : BitVec 1) : Operand8 → List Byte
  | .reg k => [reg, (0b01000 : BitVec 5) ++ mid ++ (reg8Code k).extractLsb' 0 2]
  | .mem m => mem :: shiftMemByte m :: memBytes m

/-- The bytes of a well-formed instruction, in address order (rules R80, R99). A term that is not well
formed has no encoding; what is written for it decodes to no instruction or is empty. -/
def encode : Instr → List Byte
  | .add8 d x => encodeSrc8 0x03 0x43 (accCode d) x
  | .adc d x => encodeSrc8 0x04 0x44 (accCode d) x
  | .sub8 d x => encodeSrc8 0x05 0x45 (accCode d) x
  | .sue d x => encodeSrc8 0x06 0x46 (accCode d) x
  | .add16 x => encodeSrc16 0x23 0x63 0 x
  | .sub16 x => encodeSrc16 0x25 0x65 0 x
  | .mul x => encodeSrc8 0x07 0x47 0 x
  | .div x => encodeSrc8 0x27 0x67 0 x
  | .mov8 ki kj => [0x40, regRegByte (reg8Code ki) (reg8Code kj)]
  | .exc8 ki kj => [0x41, regRegByte (reg8Code ki) (reg8Code kj)]
  | .chn k => [0x44, fieldByte 0b01000 (reg8Code k)]
  | .lda8 _ (.reg _) => []
  | .lda8 k x => encodeSrc8 0x00 0x00 (reg8Code k) x
  | .str8 k m => 0x01 :: methodRegByte (memCode m) (reg8Code k) :: memBytes m
  | .strImm v adr => [0x01, 0b00000100, v, hi8 adr, lo8 adr]
  | .mov16 kii kjj => [0x60, regRegByte (reg16Code kii) (reg16Code kjj)]
  | .exc16 kii kjj => [0x61, regRegByte (reg16Code kii) (reg16Code kjj)]
  | .lda16 _ (.reg _) => []
  | .lda16 k x => encodeSrc16 0x20 0x20 (reg16Code k) x
  | .str16 k m => 0x21 :: methodRegByte (memCode m) (reg16Code k) :: memBytes m
  | .and d x => encodeSrc8 0x10 0x50 (accCode d) x
  | .or d x => encodeSrc8 0x11 0x51 (accCode d) x
  | .xor d x => encodeSrc8 0x14 0x54 (accCode d) x
  | .clr x => encodeOne 0x0B 0x4B x
  | .inc x => encodeOne 0x18 0x58 x
  | .dec x => encodeOne 0x19 0x59 x
  | .com x => encodeOne 0x1A 0x5A x
  | .neg x => encodeOne 0x1B 0x5B x
  | .clrBit n x => encodeBit 0x0E 0x4E 0xCE n x
  | .setBit n x => encodeBit 0x0F 0x4F 0xCF n x
  | .clrFlag f => [0x5C, fieldByte 0b10000 (flagCode f)]
  | .setFlag f => [0x5E, fieldByte 0b10000 (flagCode f)]
  | .inc16 k => [0x70, fieldByte 0b01000 (reg16Code k)]
  | .dec16 k => [0x71, fieldByte 0b01000 (reg16Code k)]
  | .daa d => [0x68, fieldByte 0b01000 (accCode d)]
  | .psh k => [0x6B, fieldByte 0b01000 (accCode k)]
  | .pul d => [0x6E, fieldByte 0b01000 (accCode d)]
  | .ein => [0xC0]
  | .din => [0xC1]
  | .nop => [0xC2]
  | .rts => [0xC8]
  | .rti => [0xC9]
  | .int => [0xC3]
  | .lsl x => encodeShift 0x2F 0x6F 0 x
  | .lsr x => encodeShift 0x38 0x78 1 x
  | .asr x => encodeShift 0x39 0x79 1 x
  | .rol x => encodeShift 0x3A 0x7A 1 x
  | .ror x => encodeShift 0x3B 0x7B 1 x
  | .cmp8 k x => encodeSrc8 0x1E 0x5E (reg8Code k) x
  | .cmp16 k x => encodeSrc16 0x3E 0x7E (reg16Code k) x
  | .bit k x => encodeSrc8 0x1F 0x5F (reg8Code k) x
  | .bra p => [0x80, p]
  | .jmp adr => [0x1E, 0b00101000, hi8 adr, lo8 adr]
  | .jmc f adr => [0x1F, fieldByte 0b00111 (flagAdrCode f), hi8 adr, lo8 adr]
  | .beq p => [0x81, p]
  | .bne p => [0x82, p]
  | .bgt p => [0x83, p]
  | .bge p => [0x84, p]
  | .bls p => [0x85, p]
  | .bhi p => [0x86, p]
  | .bhe p => [0x87, p]
  | .blo p => [0x88, p]
  | .bio p => [0x89, p]
  | .bno p => [0x8A, p]
  | .bic p => [0x8B, p]
  | .bnc p => [0x8C, p]
  | .bih p => [0x8D, p]
  | .bnh p => [0x8E, p]
  | .bsr p => [0x8F, p]
  | .jsr adr => [0x14, 0b00101000, hi8 adr, lo8 adr]
  | .bscRel f p => [fieldByte 0b10010 (flagCode f), p]
  | .bscAbs f adr => [0x15, fieldByte 0b00111 (flagAdrCode f), hi8 adr, lo8 adr]
  | .dbnzReg k p => [0xC6, fieldByte 0b01000 (reg8Code k), p]
  | .dbnzMem p adr => [0xC7, p, hi8 adr, lo8 adr]

/-! ### The opcode table's numbering -/

/-- The longest instruction, in bytes (rule R80). -/
def maxLength : Nat := 5

/-- The bytes of an instruction that opcode_table.json numbers as `nbits` bits with value `w`, the first
byte the most significant (rule R102), each further byte up to the longest instruction 0. -/
def tableBytes (nbits w : Nat) : List Byte :=
  (List.range maxLength).map fun k =>
    if 8 * (k + 1) ≤ nbits then BitVec.ofNat 8 (w >>> (nbits - 8 * (k + 1))) else 0

/-- The instruction the decoder reads from an instruction of `nbits` bits `w`, numbered as
opcode_table.json numbers them (rule R102, log 11). -/
def decodeTableWord (nbits w : Nat) : Option Instr :=
  match decode (tableBytes nbits w) with
  | .done i _ => some i
  | _ => none

end Sys2Proof
end

