-- ==== Sys2Proof/Machine/Fetch.lean ====
section
/-! DEFINITION. Fetching an instruction: `Fetch8()` byte by byte until the bytes are an instruction or
begin none (00_scope rule R9, 30_encoding rule R101), and placing bytes in memory from outside. -/

namespace Sys2Proof.Machine

/-- Fetch at most `n` more bytes after the bytes `bs` already fetched from PS (rules R9, R101; log 12).
Addresses wrap at 65536 (rule R26). -/
def State.fetchFrom (s : State) : Nat → List Byte → Except Fault (Instr × Nat)
  | 0, bs => .error (.illegalInstruction s.ps bs)
  | n + 1, bs =>
    match s.read8 (s.ps + BitVec.ofNat 16 bs.length) with
    | .error f => .error f
    | .ok b =>
      match decode (bs ++ [b]) with
      | .done i len => .ok (i, len)
      | .more => s.fetchFrom n (bs ++ [b])
      | .illegal _ => .error (.illegalInstruction s.ps (bs ++ [b]))

/-- The instruction at PS and its length in bytes (rule R101). -/
def State.fetch (s : State) : Except Fault (Instr × Nat) := s.fetchFrom maxLength []

/-- PS moved past `n` bytes (rules R9, R26). -/
def State.advance (s : State) (n : Nat) : State := { s with ps := s.ps + BitVec.ofNat 16 n }

/-- Bytes placed in memory from outside the machine, upward from an address (log 11). -/
def State.load (s : State) (addr : Word) : List Byte → State
  | [] => s
  | b :: bs => (s.poke addr b).load (addr + 1) bs

end Sys2Proof.Machine
end

