-- ==== Sys2Proof/Machine/Step.lean ====
section
/-! DEFINITION. One step: an instruction boundary (60_exceptions rules R383, R384), then either the
acceptance of an interrupt or one instruction (30_encoding rule R101). -/

namespace Sys2Proof.Machine

/-- One step. At the boundary the environment may raise a request and the request is tested; a step
accepts the interrupt, or fetches the instruction at PS, moves PS past it and runs it (rules R26, R101,
R384). -/
def step (s : State) : Host.Outcome State Fault Refusal :=
  if s.pollIrq.irqAccepted then finish s.pollIrq.acceptIrq
  else
    match s.pollIrq.fetch with
    | .ok (i, n) => exec i (s.pollIrq.advance n)
    | .error f => .fault f

/-- `s` with the instruction that opcode_table.json numbers as `nbits` bits `w` stored where the next step
fetches (rule R102, log 11). Where the next boundary would accept an interrupt, K is given the disabling
value, so that the next step runs the instruction. -/
def State.withFetchWord (s : State) (nbits w : Nat) : State :=
  (if s.pollIrq.irqAccepted then s.putK !kEnabling else s).load s.ps (tableBytes nbits w)

end Sys2Proof.Machine
end

