-- ==== Sys2Proof/Safety.lean ====
section
/-! DEFINITION. What the claims call a well-formed state, a safe run, the place of an operand, and what an
instruction may change (10_state rules R25, R29). -/

namespace Sys2Proof.Machine

/-- A state whose memory is in canonical form: strictly rising 16-bit addresses (rule R31). -/
def State.wf (s : State) : Bool := s.mem.wf

/-- The step from `s` ends in a state, not in a fault or a refusal (rule R380). -/
def State.goesOn (s : State) : Prop := ∃ t, step s = .next t

/-- `t` is reached from `s` by `n` steps, none of which stops. -/
def runsTo : Nat → State → State → Prop
  | 0, s, t => s = t
  | n + 1, s, t => ∃ u, step s = .next u ∧ runsTo n u t

/-- `n` steps from `s` all end in a state. -/
def State.safeFor (s : State) (n : Nat) : Prop := ∃ t, runsTo n s t

/-- Every byte with a value in `s` has one in `t`: nothing that was readable has become unreadable. -/
def State.keepsReadable (s t : State) : Prop :=
  ∀ addr : Word, (∃ v, s.read8 addr = .ok v) → ∃ v, t.read8 addr = .ok v

/-- The bytes `bs` stand in memory from PS upward. -/
def State.atPs (s : State) (bs : List Byte) : Prop :=
  ∀ k (h : k < bs.length), s.read8 (s.ps + BitVec.ofNat 16 k) = .ok bs[k]

/-- The byte that `t` holds at the operand `x` of an instruction that runs in `s`: a register, or the byte
at the effective address that `s` gives (rules R71, R220). -/
def State.operandOf (t s : State) : Operand8 → Except Fault Byte
  | .reg k => .ok (t.reg8 k)
  | .mem m => t.read8 (s.ea m)

/-- SK after the step of methods R and Z, if the operand has one (rules R65, R66). -/
def State.skAfter (s : State) : Operand8 → Word
  | .reg _ => s.sk
  | .mem m => (s.stepSk m).sk

/-! ### What an instruction may change -/

/-- The registers, flags and bytes that an instruction may write. -/
structure Footprint where
  /-- 8-bit registers -/
  regs : List Reg8 := []
  sk : Bool := false
  yg : Bool := false
  flags : List Flag := []
  /-- the flag K -/
  k : Bool := false
  /-- control is transferred: PS may differ from `next` -/
  ps : Bool := false
  /-- the addresses stored to -/
  stores : List Word := []
deriving DecidableEq, Repr

/-- Methods R and Z step SK (rules R65, R66). -/
def Mem.stepsSk : Mem → Bool
  | .incremental _ _ => true
  | .decremental _ _ => true
  | _ => false

/-- A source operand in memory by a method that steps SK. -/
def Src8.stepsSk : Src8 → Bool
  | .mem m => Mem.stepsSk m
  | _ => false

/-- A source operand in memory by a method that steps SK. -/
def Src16.stepsSk : Src16 → Bool
  | .mem m => Mem.stepsSk m
  | _ => false

/-- The five flags of the instruction tables (rule R27). -/
def resultFlags : List Flag := [.t, .s, .n, .y, .e]

/-- The 8-bit registers that a 16-bit register is made of (rule R21). -/
def halves : Reg16 → List Reg8
  | .ab => [.a, .b]
  | .cd => [.c, .d]
  | .sk => []
  | .yg => []

/-- A write of a 16-bit register (rules R21, R22). -/
def footReg16 (k : Reg16) (flags : List Flag) : Footprint :=
  { regs := halves k, sk := k == .sk, yg := k == .yg, flags := flags }

/-- A write of an accumulator from an 8-bit source. -/
def footAcc (d : Acc) (x : Src8) (flags : List Flag) : Footprint :=
  { regs := [accReg d], sk := Src8.stepsSk x, flags := flags }

/-- A read-modify-write operand, or CLR: the address is that of rule R71. -/
def footOperand (x : Operand8) (s : State) (flags : List Flag) : Footprint :=
  match x with
  | .reg k => { regs := [k], flags := flags }
  | .mem m => { sk := Mem.stepsSk m, flags := flags, stores := [s.ea m] }

/-- A call that pushes the return address (rules R72, R348). -/
def footCall (s : State) : Footprint :=
  { yg := true, ps := true, stores := [s.yg - 1, s.yg - 2] }

/-- What the instruction may write, in the state in which it runs (rules R25, R27, R29, R71). -/
def footprint (i : Instr) (s : State) : Footprint :=
  match i with
  | .add8 d x => footAcc d x resultFlags
  | .adc d x => footAcc d x resultFlags
  | .sub8 d x => footAcc d x resultFlags
  | .sue d x => footAcc d x resultFlags
  | .add16 x => { regs := [.a, .b], sk := Src16.stepsSk x, flags := resultFlags }
  | .sub16 x => { regs := [.a, .b], sk := Src16.stepsSk x, flags := resultFlags }
  | .mul x => { regs := [.a, .b], sk := Src8.stepsSk x, flags := resultFlags }
  | .div x => { regs := [.a, .b], sk := Src8.stepsSk x, flags := resultFlags }
  | .mov8 ki _ => { regs := [ki] }
  | .exc8 ki kj => { regs := [ki, kj] }
  | .chn k => { regs := [k] }
  | .lda8 k x => { regs := [k], sk := Src8.stepsSk x }
  | .str8 _ m => { sk := Mem.stepsSk m, stores := [s.ea m] }
  | .strImm _ adr => { stores := [adr] }
  | .mov16 kii _ => footReg16 kii [.s, .n]
  | .exc16 kii kjj =>
    { regs := halves kii ++ halves kjj, sk := kii == .sk || kjj == .sk, yg := kii == .yg || kjj == .yg }
  | .lda16 k x => { footReg16 k [.s, .n] with sk := k == .sk || Src16.stepsSk x }
  | .str16 _ m => { sk := Mem.stepsSk m, stores := [s.ea m, s.ea m + 1] }
  | .and d x => footAcc d x [.s, .n]
  | .or d x => footAcc d x [.s, .n]
  | .xor d x => footAcc d x [.s, .n]
  | .clr x => footOperand x s resultFlags
  | .inc x => footOperand x s [.t, .s, .n, .e]
  | .dec x => footOperand x s [.t, .s, .n, .e]
  | .com x => footOperand x s [.s, .n]
  | .neg x => footOperand x s [.s, .n]
  | .clrBit _ x => footOperand x s [.s, .n]
  | .setBit _ x => footOperand x s [.s, .n]
  | .clrFlag f => { flags := [f] }
  | .setFlag f => { flags := [f] }
  | .inc16 k => footReg16 k [.t, .s, .n, .e]
  | .dec16 k => footReg16 k [.t, .s, .n, .e]
  | .daa d => { regs := [accReg d], flags := [.y, .e] }
  | .psh _ => { yg := true, stores := [s.yg - 1] }
  | .pul d => { regs := [accReg d], yg := true, flags := [.s, .n] }
  | .ein => { k := true }
  | .din => { k := true }
  | .nop => {}
  | .rts => { yg := true, ps := true }
  | .rti => { yg := true, ps := true, flags := resultFlags, k := true }
  | .int => { yg := true, ps := true, k := true, stores := [s.yg - 1, s.yg - 2, s.yg - 3] }
  | .lsl x => footOperand x s resultFlags
  | .lsr x => footOperand x s resultFlags
  | .asr x => footOperand x s resultFlags
  | .rol x => footOperand x s resultFlags
  | .ror x => footOperand x s resultFlags
  | .cmp8 _ x => { sk := Src8.stepsSk x, flags := resultFlags }
  | .cmp16 _ x => { sk := Src16.stepsSk x, flags := resultFlags }
  | .bit _ x => { sk := Src8.stepsSk x, flags := resultFlags }
  | .bra _ => { ps := true }
  | .jmp _ => { ps := true }
  | .jmc f _ => { ps := s.flag f }
  | .beq _ => { ps := true }
  | .bne _ => { ps := true }
  | .bgt _ => { ps := true }
  | .bge _ => { ps := true }
  | .bls _ => { ps := true }
  | .bhi _ => { ps := true }
  | .bhe _ => { ps := true }
  | .blo _ => { ps := true }
  | .bio _ => { ps := true }
  | .bno _ => { ps := true }
  | .bic _ => { ps := true }
  | .bnc _ => { ps := true }
  | .bih _ => { ps := true }
  | .bnh _ => { ps := true }
  | .bsr _ => footCall s
  | .jsr _ => footCall s
  | .bscRel f _ => if s.flag f then footCall s else {}
  | .bscAbs f _ => if s.flag f then footCall s else {}
  | .dbnzReg k _ => { regs := [k], ps := true }
  | .dbnzMem _ adr => { ps := true, stores := [adr] }

end Sys2Proof.Machine
end

