-- ==== Sys2Proof/Certificates/Slice0/Obligations.lean ====
section
/-! DEFINITION. The statements for the provers. In a statement about `exec i s`, `s` is the state with PS
already at `next`, the address after the instruction (10_state rule R26); a statement about a step says
how such a state comes about. -/

open Sys2Proof Sys2Proof.Machine

/-! ### Encoding and the step -/

/-- Every well-formed instruction is read back from its encoding, with every operand, whatever bytes
follow (30_encoding). -/
def Obligations.DecodeInvertsEncode : Prop :=
  ∀ (i : Instr) (rest : List Byte), i.wf = true →
    decode (encode i ++ rest) = .done i (encode i).length

/-- What the decoder accepts is a well-formed instruction and the bytes it read are its encoding: an
instruction has one encoding (30_encoding sections 2 to 4). -/
def Obligations.DecodedBytesAreTheEncoding : Prop :=
  ∀ (bs : List Byte) (i : Instr) (n : Nat), decode bs = .done i n →
    i.wf = true ∧ n ≤ bs.length ∧ encode i = bs.take n

/-- When the bytes from PS upward decode to an instruction and no interrupt is accepted at the boundary,
the step is `exec` of that instruction, with PS moved past its bytes (rules R26, R101). -/
def Obligations.StepRunsDecodedInstruction : Prop :=
  ∀ (s : State) (bs : List Byte) (i : Instr) (n : Nat),
    s.atPs bs → decode bs = .done i n → i.wf = true → s.pollIrq.irqAccepted = false →
    step s = exec i (s.pollIrq.advance n)

/-- When the encoding of a well-formed instruction stands at PS and no interrupt is accepted, the step runs
that instruction; the boundary counter and the pending bit are as the environment leaves them. -/
def Obligations.StepRunsEncodedInstruction : Prop :=
  ∀ (s : State) (i : Instr), i.wf = true → s.atPs (encode i) → s.pollIrq.irqAccepted = false →
    step s = exec i
      { s with
        ps := s.ps + BitVec.ofNat 16 (encode i).length
        irqPending := s.irqPending || (Config.irqPresent && Config.irqRequest s.boundary)
        boundary := s.boundary + 1 }

/-- A few encodings of every family, byte by byte, most of them the spec's own examples (sanity). -/
def Obligations.ExampleBytesDecode : Prop :=
  decode [0x03, 0x00, 0x25] = .done (.add8 .a (.imm 0x25)) 3 ∧
  decode [0x44, 0x0A] = .done (.adc .b (.reg .c)) 2 ∧
  decode [0x00, 0x80, 0x05, 0x02] = .done (.lda8 .a (.mem (.incremental 0x05 0x02))) 4 ∧
  decode [0x10, 0x00, 0x0F] = .done (.and .a (.imm 0x0F)) 3 ∧
  decode [0x01, 0x04, 0x55, 0x12, 0x34] = .done (.strImm 0x55 0x1234) 5 ∧
  decode [0x4E, 0xCE, 0x07, 0x00] = .done (.clrBit 7 (.reg .a)) 4 ∧
  decode [0x39, 0x14, 0x20, 0x00] = .done (.asr (.mem (.direct 0x2000))) 4 ∧
  decode [0x3E, 0x02, 0x20, 0x10] = .done (.cmp16 .sk (.imm 0x2010)) 4 ∧
  decode [0x15, 0x3E, 0x30, 0x00] = .done (.bscAbs .t 0x3000) 4 ∧
  decode [0xC7, 0xFC, 0x00, 0x80] = .done (.dbnzMem 0xFC 0x0080) 4 ∧
  decode [0xC9] = .done .rti 1

/-- Rule R91: the second byte of CLR flag and SET flag is `10000 fff` with the printed codes; codes 101,
110, 111 are not instructions. -/
def Obligations.FlagFormCodes : Prop :=
  ∀ (f : Flag) (c : BitVec 3) (rest : List Byte),
    (f, c) ∈ [(Flag.e, 0b000), (.y, 0b001), (.n, 0b010), (.s, 0b011), (.t, 0b100)] →
    decode (0b01011100 :: ((0b10000 : BitVec 5) ++ c) :: rest) = .done (.clrFlag f) 2 ∧
    decode (0b01011110 :: ((0b10000 : BitVec 5) ++ c) :: rest) = .done (.setFlag f) 2 ∧
    ∀ d ∈ [(0b101 : BitVec 3), 0b110, 0b111],
      decode (0b01011100 :: ((0b10000 : BitVec 5) ++ d) :: rest) = .illegal .secondByte ∧
      decode (0b01011110 :: ((0b10000 : BitVec 5) ++ d) :: rest) = .illegal .secondByte

/-- Rule R95: the relative-branch first bytes `1000 cccc` and `10010 fff`, each followed by one step byte,
and the first bytes from 10010001 to 10111111 that are not instructions. -/
def Obligations.RelativeFirstBytes : Prop :=
  (∀ (c : BitVec 4) (mk : Byte → Instr) (p : Byte) (rest : List Byte),
    (c, mk) ∈ [((0b0000 : BitVec 4), Instr.bra), (0b0001, .beq), (0b0010, .bne), (0b0011, .bgt),
      (0b0100, .bge), (0b0101, .bls), (0b0110, .bhi), (0b0111, .bhe), (0b1000, .blo), (0b1001, .bio),
      (0b1010, .bno), (0b1011, .bic), (0b1100, .bnc), (0b1101, .bih), (0b1110, .bnh),
      (0b1111, .bsr)] →
    decode (((0b1000 : BitVec 4) ++ c) :: p :: rest) = .done (mk p) 2) ∧
  (∀ (f : Flag) (c : BitVec 3) (p : Byte) (rest : List Byte),
    (f, c) ∈ [(Flag.e, 0b000), (.n, 0b010), (.s, 0b011), (.t, 0b100)] →
    decode (((0b10010 : BitVec 5) ++ c) :: p :: rest) = .done (.bscRel f p) 2) ∧
  (∀ (b : Byte) (rest : List Byte),
    b ∈ [(0b10010001 : Byte), 0b10010101, 0b10010110, 0b10010111] ∨
      ((0b10011000 : Byte) ≤ b ∧ b ≤ 0b10111111) →
    decode (b :: rest) = .illegal .firstByte)

/-- The first-byte map: a byte outside the 95 listed values begins no instruction, and a step that fetches
it ends in the fault IllegalInstruction with PS and that byte; a listed byte is never refused as a first byte
(30_encoding sections 3 and 4, decisions D8, D9). -/
def Obligations.FirstByteMap : Prop :=
  ∀ (s : State) (b : Byte), s.pollIrq.irqAccepted = false → s.read8 s.ps = .ok b →
    if b ∈ [(0x00 : Byte), 0x01, 0x03, 0x04, 0x05, 0x06, 0x07, 0x0B, 0x0E, 0x0F, 0x10, 0x11, 0x14, 0x15,
      0x18, 0x19, 0x1A, 0x1B, 0x1E, 0x1F, 0x20, 0x21, 0x23, 0x25, 0x27, 0x2F, 0x38, 0x39, 0x3A, 0x3B,
      0x3E, 0x40, 0x41, 0x43, 0x44, 0x45, 0x46, 0x47, 0x4B, 0x4E, 0x4F, 0x50, 0x51, 0x54, 0x58, 0x59,
      0x5A, 0x5B, 0x5C, 0x5E, 0x5F, 0x60, 0x61, 0x63, 0x65, 0x67, 0x68, 0x6B, 0x6E, 0x6F, 0x70, 0x71,
      0x78, 0x79, 0x7A, 0x7B, 0x7E, 0x80, 0x81, 0x82, 0x83, 0x84, 0x85, 0x86, 0x87, 0x88, 0x89, 0x8A,
      0x8B, 0x8C, 0x8D, 0x8E, 0x8F, 0x90, 0x92, 0x93, 0x94, 0xC0, 0xC1, 0xC2, 0xC3, 0xC6, 0xC7, 0xC8,
      0xC9] then ∀ rest, decode (b :: rest) ≠ .illegal .firstByte
    else step s = .fault (.illegalInstruction s.ps [b])

/-! ### Invariants and frames -/

/-- The canonical form of memory is kept by every step, an interrupt acceptance included. -/
def Obligations.StepKeepsMemoryCanonical : Prop :=
  ∀ s t : State, s.wf = true → step s = .next t → t.wf = true

/-- After reset the memory is canonical, interrupts are disabled and no request is pending (10_state
section 7, decision D40); where PS starts is the model's choice (log 3). -/
def Obligations.ResetIsCanonicalAndMasked : Prop :=
  State.reset.wf = true ∧ State.reset.dk.k = false ∧ State.reset.irqPending = false ∧
    State.reset.pollIrq.irqAccepted = false ∧ ∀ a, State.reset.read8 a = .error (.uninitialisedRead a)

/-- No step makes a byte unreadable that had a value. -/
def Obligations.StepKeepsReadable : Prop :=
  ∀ s t : State, step s = .next t → s.keepsReadable t

/-- Memory frame: every byte outside the addresses that the footprint names reads as before. The
addresses are computed by the effective-address function and by YG, in the state in which the instruction
runs. -/
def Obligations.BytesOutsideStoresUnchanged : Prop :=
  ∀ (i : Instr) (s t : State) (a : Word), exec i s = .next t →
    a ∉ (footprint i s).stores → t.read8 a = s.read8 a

/-- Register frame: every register outside the footprint is unchanged (10_state section 1). -/
def Obligations.RegistersOutsideFootprintUnchanged : Prop :=
  ∀ (i : Instr) (s t : State), exec i s = .next t →
    (∀ k : Reg8, k ∉ (footprint i s).regs → t.reg8 k = s.reg8 k) ∧
    ((footprint i s).sk = false → t.sk = s.sk) ∧
    ((footprint i s).yg = false → t.yg = s.yg)

/-- Flag frame: every flag outside the footprint is unchanged; K changes only by EIN, DIN, INT and RTI
(10_state section 3, 60_exceptions section 3). -/
def Obligations.FlagsOutsideFootprintUnchanged : Prop :=
  ∀ (i : Instr) (s t : State), exec i s = .next t →
    (∀ f : Flag, f ∉ (footprint i s).flags → t.flag f = s.flag f) ∧
    (i ∉ [Instr.ein, .din, .int, .rti] → t.dk.k = s.dk.k)

/-- Control frame: an instruction that does not transfer control leaves PS at `next`; none touches the
pending request or the environment's schedule. -/
def Obligations.SequencingOutsideFootprintUnchanged : Prop :=
  ∀ (i : Instr) (s t : State), exec i s = .next t →
    ((footprint i s).ps = false → t.ps = s.ps) ∧
    t.irqPending = s.irqPending ∧ t.boundary = s.boundary

/-! ### Operands -/

/-- The effective addresses of methods D, S, U and Y; D's two operand bytes are the address high then low;
S, U and Y leave SK, CD and YG alone, and U reads no memory. That C is the high half of CD and that
addresses are modulo 65536 are the spec's decisions D10 and D15 (logs 19, 20). -/
def Obligations.EffectiveAddressesOfDSUY : Prop :=
  ∀ (s : State) (h l o : Byte) (m : Memory),
    memBytes (.direct (h ++ l)) = [h, l] ∧ s.ea (.direct (h ++ l)) = h ++ l ∧
    memBytes (.indexed o) = [o] ∧
    (s.ea (.indexed o)).toNat = (s.sk.toNat + (off o).toNat) % 65536 ∧
    s.stepSk (.indexed o) = s ∧
    memBytes (.indirectSk o) = [o] ∧
    (s.ea (.indirectSk o)).toNat =
      (s.sk.toNat + (256 * s.c.toNat + s.d.toNat) + (off o).toNat) % 65536 ∧
    s.stepSk (.indirectSk o) = s ∧
    { s with mem := m }.ea (.indirectSk o) = s.ea (.indirectSk o) ∧
    memBytes (.indexedYg o) = [o] ∧
    (s.ea (.indexedYg o)).toNat = (s.yg.toNat + (off o).toNat) % 65536 ∧
    s.stepSk (.indexedYg o) = s

/-- Methods K, R and Z: K addresses by CD; R and Z address by the old SK and then step it by the
zero-extended step byte (20_memory section 5, decisions D13, D14); the offset S is unsigned (decision D12,
log 20). -/
def Obligations.EffectiveAddressesOfKRZ : Prop :=
  ∀ (s : State) (o r : Byte),
    (s.ea .indirect).toNat = 256 * s.c.toNat + s.d.toNat ∧ s.stepSk .indirect = s ∧
    (s.ea (.incremental o r)).toNat = (s.sk.toNat + o.toNat) % 65536 ∧
    (s.ea (.decremental o r)).toNat = (s.sk.toNat + o.toNat) % 65536 ∧
    s.stepSk (.incremental o r) = { s with sk := BitVec.ofNat 16 (s.sk.toNat + r.toNat) } ∧
    s.stepSk (.decremental o r) = { s with sk := BitVec.ofNat 16 (65536 + s.sk.toNat - r.toNat) }

/-- A read that fails stops its instruction in the fault of the read: a source operand, the operand of a
read-modify-write, the byte that DBNZ counts, and each byte that PUL, RTS and RTI pull. 16-bit LDA of SK by
methods R and Z is left out: it is refused before it reads (10_state section 7; log 4). -/
def Obligations.UnreadableOperandFaults : Prop :=
  (∀ (d : Acc) (k : Reg8) (x : Src8) (s : State) (f : Fault), s.src8 x = .error f →
    ∀ i ∈ [Instr.add8 d x, .adc d x, .sub8 d x, .sue d x, .mul x, .div x, .lda8 k x, .and d x, .or d x,
      .xor d x, .cmp8 k x, .bit k x], exec i s = .fault f) ∧
  (∀ (k : Reg16) (x : Src16) (s : State) (f : Fault), s.src16 x = .error f →
    (∀ i ∈ [Instr.add16 x, .sub16 x, .cmp16 k x], exec i s = .fault f) ∧
    ((∀ o r, k = .sk → x ≠ .mem (.incremental o r) ∧ x ≠ .mem (.decremental o r)) →
      exec (.lda16 k x) s = .fault f)) ∧
  (∀ (n : BitVec 3) (x : Operand8) (s : State) (f : Fault), s.operandOf s x = .error f →
    ∀ i ∈ [Instr.inc x, .dec x, .com x, .neg x, .clrBit n x, .setBit n x, .lsl x, .lsr x, .asr x, .rol x,
      .ror x], exec i s = .fault f) ∧
  (∀ (p : Byte) (adr : Word) (s : State) (f : Fault), s.read8 adr = .error f →
    exec (.dbnzMem p adr) s = .fault f) ∧
  (∀ (d : Acc) (s : State) (f : Fault), s.read8 s.yg = .error f →
    ∀ i ∈ [Instr.pul d, .rts, .rti], exec i s = .fault f) ∧
  (∀ (s : State) (v : Byte) (f : Fault), s.read8 s.yg = .ok v → s.read8 (s.yg + 1) = .error f →
    ∀ i ∈ [Instr.rts, .rti], exec i s = .fault f) ∧
  (∀ (s : State) (v h : Byte) (f : Fault), s.read8 s.yg = .ok v → s.read8 (s.yg + 1) = .ok h →
    s.read8 (s.yg + 2) = .error f → exec .rti s = .fault f)

/-! ### Arithmetic -/

/-- ADD and ADC: the sum modulo 256, E the carry, Y the carry out of bit 3, T the signed overflow, S and N
of the sum; SK stepped by methods R and Z. The flags are the spec's decision D17. -/
def Obligations.AddAndAdcGiveSumAndFlags : Prop :=
  ∀ (d : Acc) (x : Src8) (s : State) (v : Byte) (i : Instr) (c : Bool), s.src8 x = .ok v →
    (i = .add8 d x ∧ c = false) ∨ (i = .adc d x ∧ c = s.flag .e) →
    ∃ t, exec i s = .next t ∧
      t.reg8 (accReg d) = s.reg8 (accReg d) + v + (if c then 1 else 0) ∧
      t.flag .e = decide (255 < (s.reg8 (accReg d)).toNat + v.toNat + c.toNat) ∧
      t.flag .y = decide (15 < (s.reg8 (accReg d)).toNat % 16 + v.toNat % 16 + c.toNat) ∧
      t.flag .t = decide ((s.reg8 (accReg d)).toInt + v.toInt + c.toNat < -128 ∨
        127 < (s.reg8 (accReg d)).toInt + v.toInt + c.toNat) ∧
      t.flag .s = decide (t.reg8 (accReg d) = 0) ∧
      t.flag .n = decide ((t.reg8 (accReg d)).toInt < 0) ∧
      t.sk = (s.post8 x).sk

/-- SUB and SUE: the difference modulo 256, E the borrow, Y the borrow into bit 3, T the signed overflow,
S and N of the difference; SK stepped by methods R and Z. The flags are the spec's decisions D17, D18. -/
def Obligations.SubAndSueGiveDifferenceAndFlags : Prop :=
  ∀ (d : Acc) (x : Src8) (s : State) (v : Byte) (i : Instr) (c : Bool), s.src8 x = .ok v →
    (i = .sub8 d x ∧ c = false) ∨ (i = .sue d x ∧ c = s.flag .e) →
    ∃ t, exec i s = .next t ∧
      t.reg8 (accReg d) = s.reg8 (accReg d) - v - (if c then 1 else 0) ∧
      t.flag .e = decide ((s.reg8 (accReg d)).toNat < v.toNat + c.toNat) ∧
      t.flag .y = decide ((s.reg8 (accReg d)).toNat % 16 < v.toNat % 16 + c.toNat) ∧
      t.flag .t = decide ((s.reg8 (accReg d)).toInt - v.toInt - c.toNat < -128 ∨
        127 < (s.reg8 (accReg d)).toInt - v.toInt - c.toNat) ∧
      t.flag .s = decide (t.reg8 (accReg d) = 0) ∧
      t.flag .n = decide ((t.reg8 (accReg d)).toInt < 0) ∧
      t.sk = (s.post8 x).sk

/-- The 16-bit ADD and SUB on AB: result modulo 65536, E the carry or the borrow, T the signed overflow,
S and N of the result, Y the next free value (log 5); SK stepped by methods R and Z. The flags are the
spec's decisions D17, D18. -/
def Obligations.WordAddAndSubGiveResultAndFlags : Prop :=
  ∀ (x : Src16) (s : State) (v : Word), s.src16 x = .ok v →
    (∃ t, exec (.add16 x) s = .next t ∧
      t.reg16 .ab = s.reg16 .ab + v ∧
      t.flag .e = decide (65535 < (s.reg16 .ab).toNat + v.toNat) ∧
      t.flag .t = decide ((s.reg16 .ab).toInt + v.toInt < -32768 ∨
        32767 < (s.reg16 .ab).toInt + v.toInt) ∧
      t.flag .s = decide (t.reg16 .ab = 0) ∧ t.flag .n = decide ((t.reg16 .ab).toInt < 0) ∧
      t.flag .y = Config.unspecifiedBit s.draws ∧ t.sk = (s.post16 x).sk) ∧
    (∃ t, exec (.sub16 x) s = .next t ∧
      t.reg16 .ab = s.reg16 .ab - v ∧
      t.flag .e = decide ((s.reg16 .ab).toNat < v.toNat) ∧
      t.flag .t = decide ((s.reg16 .ab).toInt - v.toInt < -32768 ∨
        32767 < (s.reg16 .ab).toInt - v.toInt) ∧
      t.flag .s = decide (t.reg16 .ab = 0) ∧ t.flag .n = decide ((t.reg16 .ab).toInt < 0) ∧
      t.flag .y = Config.unspecifiedBit s.draws ∧ t.sk = (s.post16 x).sk)

/-- MUL: AB receives the exact unsigned product of A and the operand, A's half the more significant (the
default MUL_SIGNED = false, decisions D10, D19). -/
def Obligations.MulGivesExactProduct : Prop :=
  ∀ (x : Src8) (s : State) (v : Byte), s.src8 x = .ok v →
    ∃ t, exec (.mul x) s = .next t ∧
      256 * t.a.toNat + t.b.toNat = s.a.toNat * v.toNat ∧ t.sk = (s.post8 x).sk

/-- DIV: AB receives the unsigned quotient; divisor 0 ends in the fault DivideByZero (defaults of
DIV_SIGNED and DIV_KEEPS_REMAINDER, decision D20, log 13). -/
def Obligations.DivGivesQuotientOrFaults : Prop :=
  ∀ (x : Src8) (s : State) (v : Byte), s.src8 x = .ok v →
    (v = 0 → exec (.div x) s = .fault .divideByZero) ∧
    (v ≠ 0 → ∃ t, exec (.div x) s = .next t ∧
      256 * t.a.toNat + t.b.toNat = (256 * s.a.toNat + s.b.toNat) / v.toNat ∧
      t.sk = (s.post8 x).sk)

/-! ### Transfer -/

/-- MOV, EXC and CHN of 8-bit registers: copy, exchange, exchange of nibbles; no flag is written (decisions
D21 to D23). -/
def Obligations.ByteRegisterMoves : Prop :=
  ∀ (s : State) (ki kj : Reg8),
    (∃ t, exec (.mov8 ki kj) s = .next t ∧ t.reg8 ki = s.reg8 kj ∧ t.dk = s.dk) ∧
    (∃ t, exec (.exc8 ki kj) s = .next t ∧ t.reg8 ki = s.reg8 kj ∧ t.reg8 kj = s.reg8 ki ∧
      t.dk = s.dk) ∧
    (∃ t, exec (.chn ki) s = .next t ∧ t.dk = s.dk ∧
      (t.reg8 ki).toNat = 16 * ((s.reg8 ki).toNat % 16) + (s.reg8 ki).toNat / 16)

/-- LDA of an 8-bit register: the register receives the operand. STR: the byte at the effective address
becomes the register, whether or not it had a value. Neither writes a flag (decision D21 for LDA); SK is
stepped by methods R and Z. -/
def Obligations.ByteLoadAndStore : Prop :=
  (∀ (k : Reg8) (x : Src8) (s : State) (v : Byte), s.src8 x = .ok v →
    ∃ t, exec (.lda8 k x) s = .next t ∧ t.reg8 k = v ∧ t.dk = s.dk ∧ t.sk = (s.post8 x).sk) ∧
  (∀ (k : Reg8) (m : Mem) (s : State),
    ∃ t, exec (.str8 k m) s = .next t ∧ t.read8 (s.ea m) = .ok (s.reg8 k) ∧ t.dk = s.dk ∧
      t.sk = (s.stepSk m).sk)

/-- Rule R176: STR V,Adr is `00000001 00000100 i h l`; it writes the data byte, which precedes the address,
to the address and changes nothing else. -/
def Obligations.StoreImmediate : Prop :=
  ∀ (v h l : Byte) (rest : List Byte) (s : State),
    decode (0b00000001 :: 0b00000100 :: v :: h :: l :: rest) = .done (.strImm v (h ++ l)) 5 ∧
    exec (.strImm v (h ++ l)) s =
      .next { s with mem := s.mem.write (256 * h.toNat + l.toNat) v }

/-- MOV of 16-bit registers: copy; S and N of the value at 16 bits, the other flags unchanged (decision
D48). -/
def Obligations.WordMove : Prop :=
  ∀ (kii kjj : Reg16) (s : State),
    ∃ t, exec (.mov16 kii kjj) s = .next t ∧ t.reg16 kii = s.reg16 kjj ∧
      t.dk = { s.dk with s := decide (s.reg16 kjj = 0), n := decide ((s.reg16 kjj).toInt < 0) }

/-- Rule R178: EXC of 16-bit registers is `01100001 00 kkk sss`; it exchanges the two registers and writes
nothing else. -/
def Obligations.WordExchange : Prop :=
  ∀ (kii kjj : Reg16) (rest : List Byte) (s : State),
    decode (0b01100001 :: ((0b00 : BitVec 2) ++ reg16Code kii ++ reg16Code kjj) :: rest) =
      .done (.exc16 kii kjj) 2 ∧
    ∃ t, exec (.exc16 kii kjj) s = .next t ∧
      t.reg16 kii = s.reg16 kjj ∧ t.reg16 kjj = s.reg16 kii ∧
      (∀ k, k ≠ kii → k ≠ kjj → t.reg16 k = s.reg16 k) ∧
      t.dk = s.dk ∧ t.mem = s.mem ∧ t.ps = s.ps

/-- LDA of a 16-bit register: the register receives the operand, S and N from it (decision D48), SK stepped
by methods R and Z; LDA of SK by method R or Z is the fault UnspecifiedCombination (decision D13, log
13). -/
def Obligations.WordLoad : Prop :=
  (∀ (k : Reg16) (x : Src16) (s : State) (v : Word), s.src16 x = .ok v →
    (∀ o r, k = .sk → x ≠ .mem (.incremental o r) ∧ x ≠ .mem (.decremental o r)) →
    ∃ t, exec (.lda16 k x) s = .next t ∧ t.reg16 k = v ∧ (k ≠ .sk → t.sk = (s.post16 x).sk) ∧
      t.dk = { s.dk with s := decide (v = 0), n := decide (v.toInt < 0) }) ∧
  (∀ (o r : Byte) (m : Mem) (s : State), m = .incremental o r ∨ m = .decremental o r →
    exec (.lda16 .sk (.mem m)) s = .fault (.unspecifiedCombination (.instruction (.lda16 .sk (.mem m)))))

/-- STR of a 16-bit register: the high byte to the effective address, the low byte to the next, modulo
65536 (decisions D11, D15); the value is the register before the step of SK; no flag is written. -/
def Obligations.WordStore : Prop :=
  ∀ (k : Reg16) (m : Mem) (s : State),
    ∃ t, exec (.str16 k m) s = .next t ∧
      (∃ h l : Byte, s.reg16 k = h ++ l ∧ t.read8 (s.ea m) = .ok h ∧ t.read8 (s.ea m + 1) = .ok l) ∧
      t.dk = s.dk ∧ t.sk = (s.stepSk m).sk

/-! ### Logic and OPERATION - I -/

/-- AND, OR, XOR: every bit of the accumulator, S and N of the result, T, Y, E and K unchanged (decision
D16); SK stepped by methods R and Z. -/
def Obligations.LogicIsBitwise : Prop :=
  ∀ (d : Acc) (x : Src8) (s : State) (v : Byte) (i : Instr) (op : Bool → Bool → Bool),
    s.src8 x = .ok v →
    (i = .and d x ∧ op = (· && ·)) ∨ (i = .or d x ∧ op = (· || ·)) ∨ (i = .xor d x ∧ op = (· ^^ ·)) →
    ∃ t, exec i s = .next t ∧
      (∀ j < 8, (t.reg8 (accReg d)).getLsbD j =
        op ((s.reg8 (accReg d)).getLsbD j) (v.getLsbD j)) ∧
      t.dk = { s.dk with
        s := decide (t.reg8 (accReg d) = 0), n := (t.reg8 (accReg d)).getLsbD 7 } ∧
      t.sk = (s.post8 x).sk

/-- CLR x: the operand becomes 0, even a byte that had no value; T, N, Y, E are 0 and S is 1 (43_operation_1_2
section 2, decision D43). -/
def Obligations.ClearOperand : Prop :=
  ∀ (x : Operand8) (s : State),
    ∃ t, exec (.clr x) s = .next t ∧ t.operandOf s x = .ok 0 ∧ t.sk = s.skAfter x ∧
      t.dk = { e := false, y := false, s := true, n := false, t := false, k := s.dk.k }

/-- INC and DEC of a byte: the operand plus or minus 1 modulo 256, T the signed overflow, E the carry or the
borrow, S and N of the result, Y and K unchanged (decision D24); SK stepped last. -/
def Obligations.ByteIncrementAndDecrement : Prop :=
  ∀ (x : Operand8) (s : State) (v : Byte), s.operandOf s x = .ok v →
    (∃ t, exec (.inc x) s = .next t ∧ t.operandOf s x = .ok (v + 1) ∧ t.sk = s.skAfter x ∧
      t.dk = { s.dk with
        t := decide (127 < v.toInt + 1), e := decide (255 < v.toNat + 1)
        s := decide (v + 1 = 0), n := decide ((v + 1).toInt < 0) }) ∧
    (∃ t, exec (.dec x) s = .next t ∧ t.operandOf s x = .ok (v - 1) ∧ t.sk = s.skAfter x ∧
      t.dk = { s.dk with
        t := decide (v.toInt - 1 < -128), e := decide (v.toNat < 1)
        s := decide (v - 1 = 0), n := decide ((v - 1).toInt < 0) })

/-- COM, NEG, CLR N,x and SET N,x: the operand's complement, its negation, its bit N written; S and N of the
result, T, Y, E and K unchanged (decisions D25, D26); SK stepped last. -/
def Obligations.ComplementNegateAndBitWrites : Prop :=
  ∀ (x : Operand8) (s : State) (v r : Byte) (n : BitVec 3) (i : Instr), s.operandOf s x = .ok v →
    (i = .com x ∧ ∀ j < 8, r.getLsbD j = !v.getLsbD j) ∨
    (i = .neg x ∧ r + v = 0) ∨
    (i = .clrBit n x ∧ ∀ j < 8, r.getLsbD j = if j = n.toNat then false else v.getLsbD j) ∨
    (i = .setBit n x ∧ ∀ j < 8, r.getLsbD j = if j = n.toNat then true else v.getLsbD j) →
    ∃ t, exec i s = .next t ∧ t.operandOf s x = .ok r ∧ t.sk = s.skAfter x ∧
      t.dk = { s.dk with s := decide (r = 0), n := r.getLsbD 7 }

/-! ### OPERATION INSTRUCTIONS -/

/-- CLR flag clears the named flag and changes nothing else (decision D27 for T). -/
def Obligations.ClearFlag : Prop :=
  ∀ (f : Flag) (s : State),
    ∃ t, exec (.clrFlag f) s = .next t ∧ t.flag f = false ∧ (∀ g ≠ f, t.flag g = s.flag g) ∧
      t = { s with dk := t.dk } ∧ t.dk.k = s.dk.k

/-- Rule R261: SET flag is `01011110 10000 fff`; it sets the named flag and changes nothing else. -/
def Obligations.SetFlag : Prop :=
  ∀ (f : Flag) (c : BitVec 3) (rest : List Byte) (s : State),
    (f, c) ∈ [(Flag.e, 0b000), (.y, 0b001), (.n, 0b010), (.s, 0b011), (.t, 0b100)] →
    decode (0b01011110 :: ((0b10000 : BitVec 5) ++ c) :: rest) = .done (.setFlag f) 2 ∧
    (∀ d ∈ [(0b101 : BitVec 3), 0b110, 0b111],
      decode (0b01011110 :: ((0b10000 : BitVec 5) ++ d) :: rest) = .illegal .secondByte) ∧
    ∃ t, exec (.setFlag f) s = .next t ∧ t.flag f = true ∧ (∀ g ≠ f, t.flag g = s.flag g) ∧
      t = { s with dk := t.dk } ∧ t.dk.k = s.dk.k

/-- INC and DEC of a 16-bit register: plus or minus 1 modulo 65536, T the signed overflow, E the carry or
the borrow, S and N of the result, Y and K unchanged (decision D24). -/
def Obligations.WordIncrementAndDecrement : Prop :=
  ∀ (k : Reg16) (s : State),
    (∃ t, exec (.inc16 k) s = .next t ∧ t.reg16 k = s.reg16 k + 1 ∧
      t.dk = { s.dk with
        t := decide (32767 < (s.reg16 k).toInt + 1), e := decide (65535 < (s.reg16 k).toNat + 1)
        s := decide (s.reg16 k + 1 = 0), n := decide ((s.reg16 k + 1).toInt < 0) }) ∧
    (∃ t, exec (.dec16 k) s = .next t ∧ t.reg16 k = s.reg16 k - 1 ∧
      t.dk = { s.dk with
        t := decide ((s.reg16 k).toInt - 1 < -32768), e := decide ((s.reg16 k).toNat < 1)
        s := decide (s.reg16 k - 1 = 0), n := decide ((s.reg16 k - 1).toInt < 0) })

/-- DAA: the accumulator becomes the open function of itself, Y and E; Y and E become 0, T, S, N and K are
unchanged (decision D28, log 8). -/
def Obligations.DecimalAdjust : Prop :=
  ∀ (d : Acc) (s : State),
    ∃ t, exec (.daa d) s = .next t ∧
      t.reg8 (accReg d) = Config.daaFn (s.reg8 (accReg d)) (s.flag .y) (s.flag .e) ∧
      t.dk = { s.dk with y := false, e := false }

/-- PSH stores the accumulator just below YG and moves YG there; PUL loads the byte at YG, steps YG past it
and writes S and N (decisions D29, D48). -/
def Obligations.PushAndPull : Prop :=
  ∀ (d : Acc) (s : State),
    (∃ t, exec (.psh d) s = .next t ∧ t.yg = s.yg - 1 ∧
      t.read8 (s.yg - 1) = .ok (s.reg8 (accReg d)) ∧ t.dk = s.dk) ∧
    (∀ v, s.read8 s.yg = .ok v →
      ∃ t, exec (.pul d) s = .next t ∧ t.yg = s.yg + 1 ∧ t.reg8 (accReg d) = v ∧
        t.dk = { s.dk with s := decide (v = 0), n := decide (v.toInt < 0) })

/-- EIN and DIN write K, to 1 and to 0, and nothing else (the default K_ONE_ENABLES, decision D36). -/
def Obligations.InterruptEnableAndDisable : Prop :=
  ∀ s : State,
    exec .ein s = .next { s with dk := { s.dk with k := true } } ∧
    exec .din s = .next { s with dk := { s.dk with k := false } }

/-- Rule R269: NOP is `11000010`, one byte; PS advances by 1 and nothing else of the machine changes. The
clause on the step names the boundary counter and the pending bit, which the environment moves. -/
def Obligations.NoOperation : Prop :=
  (∀ rest, decode (0b11000010 :: rest) = .done .nop 1) ∧
  (∀ s : State, exec .nop s = .next s) ∧
  ∀ s : State, s.read8 s.ps = .ok 0b11000010 → s.pollIrq.irqAccepted = false →
    step s = .next { s.pollIrq with ps := s.ps + 1 }

/-- RTS: PS becomes the two bytes at YG, high first, and YG increases by 2; nothing else changes (decision
D34). -/
def Obligations.ReturnFromSubroutine : Prop :=
  ∀ (s : State) (h l : Byte), s.read8 s.yg = .ok h → s.read8 (s.yg + 1) = .ok l →
    exec .rts s = .next { s with ps := h ++ l, yg := s.yg + 2 }

/-- RTI: DK from the byte at YG by DK_LAYOUT, PS from the two bytes above it, high first, YG plus 3; nothing
else changes (the default TRAP_FRAME, decision D38, log 21). -/
def Obligations.ReturnFromInterrupt : Prop :=
  ∀ (s : State) (v h l : Byte),
    s.read8 s.yg = .ok v → s.read8 (s.yg + 1) = .ok h → s.read8 (s.yg + 2) = .ok l →
    exec .rti s = .next
      { s with
        ps := h ++ l, yg := s.yg + 3
        dk := { e := v.getLsbD 0, y := v.getLsbD 1, n := v.getLsbD 2, s := v.getLsbD 3,
                t := v.getLsbD 4, k := v.getLsbD 5 } }

/-- INT: `next` is pushed, then DK with K as it was; K becomes disabling, the other flags stay, control goes
to INT_ENTRY; no register but YG and PS changes (the default TRAP_FRAME, decision D38, logs 7 and 21). -/
def Obligations.SoftwareInterruptEntry : Prop :=
  ∀ s : State,
    ∃ t v h l, exec .int s = .next t ∧
      t.ps = Config.intEntry ∧ t.yg = s.yg - 3 ∧ t.dk = { s.dk with k := false } ∧
      t.read8 t.yg = .ok v ∧ t.read8 (t.yg + 1) = .ok h ∧ t.read8 (t.yg + 2) = .ok l ∧
      s.ps = h ++ l ∧ v < 64 ∧
      s.dk = { e := v.getLsbD 0, y := v.getLsbD 1, n := v.getLsbD 2, s := v.getLsbD 3,
               t := v.getLsbD 4, k := v.getLsbD 5 } ∧
      (∀ k, t.reg8 k = s.reg8 k) ∧ t.sk = s.sk

/-- What INT saves RTI restores: the flags, K included, `next` and YG, with the registers as they were at
the return (60_exceptions section 3, decision D38). -/
def Obligations.InterruptThenReturnRestores : Prop :=
  ∀ s : State, ∃ t, exec .int s = .next t ∧ ∀ u : State,
    u.yg = t.yg → (∀ a ∈ [t.yg, t.yg + 1, t.yg + 2], u.read8 a = t.read8 a) →
    exec .rti u = .next { u with ps := s.ps, dk := s.dk, yg := s.yg }

/-! ### Shift and rotate -/

/-- Shifts and rotates by one position: each bit of the result, E the bit shifted out, S and N of the
result, T and Y the next two free values (log 5), K unchanged; ROL and ROR take the old E in (decision D30);
SK stepped last. -/
def Obligations.ShiftsAndRotatesMoveOneBit : Prop :=
  ∀ (x : Operand8) (s : State) (v r : Byte) (i : Instr) (out : Bool), s.operandOf s x = .ok v →
    (out = v.getLsbD 7 ∧ (∀ j < 7, r.getLsbD (j + 1) = v.getLsbD j) ∧
      ((i = .lsl x ∧ r.getLsbD 0 = false) ∨ (i = .rol x ∧ r.getLsbD 0 = s.flag .e))) ∨
    (out = v.getLsbD 0 ∧ (∀ j < 7, r.getLsbD j = v.getLsbD (j + 1)) ∧
      ((i = .lsr x ∧ r.getLsbD 7 = false) ∨ (i = .asr x ∧ r.getLsbD 7 = v.getLsbD 7) ∨
        (i = .ror x ∧ r.getLsbD 7 = s.flag .e))) →
    ∃ t, exec i s = .next t ∧ t.operandOf s x = .ok r ∧ t.sk = s.skAfter x ∧
      t.dk = { e := out, s := decide (r = 0), n := r.getLsbD 7, k := s.dk.k
               t := Config.unspecifiedBit s.draws, y := Config.unspecifiedBit (s.draws + 1) }

/-! ### Compare -/

/-- CMP of an 8-bit register: the flags of the subtraction, no register written but the step of SK by
methods R and Z (decisions D17, D18). -/
def Obligations.ByteCompare : Prop :=
  ∀ (k : Reg8) (x : Src8) (s : State) (v : Byte), s.src8 x = .ok v →
    ∃ t, exec (.cmp8 k x) s = .next t ∧ (∀ j, t.reg8 j = s.reg8 j) ∧ t.sk = (s.post8 x).sk ∧
      t.dk = { e := decide ((s.reg8 k).toNat < v.toNat)
               y := decide ((s.reg8 k).toNat % 16 < v.toNat % 16)
               t := decide ((s.reg8 k).toInt - v.toInt < -128 ∨ 127 < (s.reg8 k).toInt - v.toInt)
               s := decide (s.reg8 k = v)
               n := (s.reg8 k - v).getLsbD 7
               k := s.dk.k }

/-- CMP of a 16-bit register: the flags of the subtraction, Y the next free value (log 5), no register
written but the step of SK (decisions D17, D18). -/
def Obligations.WordCompare : Prop :=
  ∀ (k : Reg16) (x : Src16) (s : State) (v : Word), s.src16 x = .ok v →
    ∃ t, exec (.cmp16 k x) s = .next t ∧ (∀ j, t.reg8 j = s.reg8 j) ∧ t.sk = (s.post16 x).sk ∧
      t.dk = { e := decide ((s.reg16 k).toNat < v.toNat)
               y := Config.unspecifiedBit s.draws
               t := decide ((s.reg16 k).toInt - v.toInt < -32768 ∨
                 32767 < (s.reg16 k).toInt - v.toInt)
               s := decide (s.reg16 k = v)
               n := (s.reg16 k - v).getLsbD 15
               k := s.dk.k }

/-- BIT: S and N of the AND of the register and the operand; T, Y and E the next three free values (decision
D31, log 5); no register written but the step of SK. -/
def Obligations.BitTest : Prop :=
  ∀ (k : Reg8) (x : Src8) (s : State) (v : Byte), s.src8 x = .ok v →
    ∃ t, exec (.bit k x) s = .next t ∧ (∀ j, t.reg8 j = s.reg8 j) ∧ t.sk = (s.post8 x).sk ∧
      t.dk = { s := decide (s.reg8 k &&& v = 0)
               n := (s.reg8 k).getLsbD 7 && v.getLsbD 7
               t := Config.unspecifiedBit s.draws
               y := Config.unspecifiedBit (s.draws + 1)
               e := Config.unspecifiedBit (s.draws + 2)
               k := s.dk.k }

/-! ### Jump and branch -/

/-- BRA is `10000000 p` and goes to `next` plus the sign-extended step (the spec's decision D32); JMP is
`00011110 00101000 h l` and goes to the address. Neither changes anything but PS. -/
def Obligations.UnconditionalJumps : Prop :=
  ∀ (p h l : Byte) (rest : List Byte) (s : State),
    decode (0b10000000 :: p :: rest) = .done (.bra p) 2 ∧
    exec (.bra p) s = .next { s with ps := BitVec.ofInt 16 (s.ps.toNat + p.toInt) } ∧
    decode (0b00011110 :: 0b00101000 :: h :: l :: rest) = .done (.jmp (h ++ l)) 4 ∧
    exec (.jmp (h ++ l)) s = .next { s with ps := h ++ l }

/-- Rule R333: JMC is `00011111 00111 fff h l` with the codes E 000, N 010, S 011, T 110; it goes to the
address if the flag is 1 and changes nothing but PS; four other second bytes are illegal. -/
def Obligations.ConditionalJumpToAddress : Prop :=
  (∀ (f : Flag) (c : BitVec 3) (h l : Byte) (rest : List Byte) (s : State),
    (f, c) ∈ [(Flag.e, 0b000), (.n, 0b010), (.s, 0b011), (.t, 0b110)] →
    decode (0b00011111 :: ((0b00111 : BitVec 5) ++ c) :: h :: l :: rest) =
      .done (.jmc f (h ++ l)) 4 ∧
    exec (.jmc f (h ++ l)) s = .next { s with ps := if s.flag f = true then h ++ l else s.ps }) ∧
  ∀ (b : Byte) (rest : List Byte), b ∈ [(0b00111001 : Byte), 0b00111100, 0b00111101, 0b00111111] →
    decode (0b00011111 :: b :: rest) = .illegal .secondByte

/-- BEQ to BLO by their flags: taken to `next` plus the sign-extended step, else PS stays at `next`; nothing
but PS changes (the conditions are the spec's decision D33). -/
def Obligations.NamedBranchConditions : Prop :=
  ∀ (p : Byte) (s : State) (i : Instr) (c : Bool),
    (i, c) ∈ [(Instr.beq p, s.flag .s), (.bne p, !s.flag .s),
      (.bgt p, !s.flag .s && s.flag .n == s.flag .t), (.bge p, s.flag .n == s.flag .t),
      (.bls p, s.flag .n != s.flag .t), (.bhi p, !s.flag .e && !s.flag .s), (.bhe p, !s.flag .e),
      (.blo p, s.flag .e)] →
    exec i s =
      .next { s with ps := if c then BitVec.ofInt 16 (s.ps.toNat + p.toInt) else s.ps }

/-- BIO, BNO, BIC, BNC, BIH, BNH by their printed flags, with their encodings; nothing but PS changes (the
target is the spec's decision D32). -/
def Obligations.FlagBranchConditions : Prop :=
  ∀ (p b : Byte) (s : State) (rest : List Byte) (i : Instr) (c : Bool),
    (b, i, c) ∈ [((0b10001001 : Byte), Instr.bio p, s.flag .t), (0b10001010, .bno p, !s.flag .t),
      (0b10001011, .bic p, s.flag .e), (0b10001100, .bnc p, !s.flag .e),
      (0b10001101, .bih p, s.flag .y), (0b10001110, .bnh p, !s.flag .y)] →
    decode (b :: p :: rest) = .done i 2 ∧
    exec i s =
      .next { s with ps := if c then BitVec.ofInt 16 (s.ps.toNat + p.toInt) else s.ps }

/-- A compare followed by a named branch: BEQ, BNE, BGT, BGE, BLS decide the two's complement order and BHI,
BHE, BLO the unsigned order of the register and the operand, at 8 bits (the spec's decision D33). -/
def Obligations.CompareThenBranchDecidesOrder : Prop :=
  ∀ (k : Reg8) (x : Src8) (s : State) (v p : Byte), s.src8 x = .ok v →
    ∃ t, exec (.cmp8 k x) s = .next t ∧ ∀ (n : Nat) (i : Instr) (c : Bool),
      (i, c) ∈ [(Instr.beq p, decide (s.reg8 k = v)), (.bne p, decide (s.reg8 k ≠ v)),
        (.bgt p, decide (v.toInt < (s.reg8 k).toInt)), (.bge p, decide (v.toInt ≤ (s.reg8 k).toInt)),
        (.bls p, decide ((s.reg8 k).toInt < v.toInt)), (.bhi p, decide (v.toNat < (s.reg8 k).toNat)),
        (.bhe p, decide (v.toNat ≤ (s.reg8 k).toNat)), (.blo p, decide ((s.reg8 k).toNat < v.toNat))] →
      ∃ u, exec i (t.advance n) = .next u ∧
        u.ps = if c then BitVec.ofInt 16 ((t.advance n).ps.toNat + p.toInt) else (t.advance n).ps

/-- BSR and JSR: `next` is pushed, high byte at the lower address, YG minus 2, control to the target;
nothing else changes but those two bytes (decisions D29, D32, D34). -/
def Obligations.SubroutineCalls : Prop :=
  ∀ (p : Byte) (adr target : Word) (s : State) (i : Instr),
    (i = .bsr p ∧ target = BitVec.ofInt 16 (s.ps.toNat + p.toInt)) ∨ (i = .jsr adr ∧ target = adr) →
    ∃ t h l, exec i s = .next t ∧ t.ps = target ∧ t.yg = s.yg - 2 ∧ s.ps = h ++ l ∧
      t.read8 (s.yg - 2) = .ok h ∧ t.read8 (s.yg - 1) = .ok l ∧ t.dk = s.dk

/-- BSC relative and absolute: a call when the flag is 1, and when it is 0 nothing is pushed and nothing
changes (decisions D29, D32, D34). -/
def Obligations.ConditionalCalls : Prop :=
  ∀ (f : Flag) (p : Byte) (adr target : Word) (s : State) (i : Instr),
    (i = .bscRel f p ∧ target = BitVec.ofInt 16 (s.ps.toNat + p.toInt)) ∨
      (i = .bscAbs f adr ∧ target = adr) →
    (s.flag f = false → exec i s = .next s) ∧
    (s.flag f = true → ∃ t h l, exec i s = .next t ∧ t.ps = target ∧ t.yg = s.yg - 2 ∧
      s.ps = h ++ l ∧ t.read8 (s.yg - 2) = .ok h ∧ t.read8 (s.yg - 1) = .ok l ∧ t.dk = s.dk)

/-- RTS after a call returns to the address after the call with YG restored, if YG and the two stacked bytes
are as the call left them (decision D34). -/
def Obligations.ReturnUndoesCall : Prop :=
  ∀ (f : Flag) (p : Byte) (adr : Word) (s : State) (i : Instr),
    i ∈ [Instr.bsr p, .jsr adr] ∨ (i ∈ [Instr.bscRel f p, .bscAbs f adr] ∧ s.flag f = true) →
    ∃ t, exec i s = .next t ∧ ∀ u : State,
      u.yg = t.yg → (∀ a ∈ [t.yg, t.yg + 1], u.read8 a = t.read8 a) →
      exec .rts u = .next { u with ps := s.ps, yg := s.yg }

/-- DBNZ: the register or the byte is decremented modulo 256, always; the branch is taken exactly when it is
not 0 afterwards; no flag is written (decisions D32, D35). -/
def Obligations.DecrementAndBranch : Prop :=
  (∀ (k : Reg8) (p : Byte) (s : State),
    ∃ t, exec (.dbnzReg k p) s = .next t ∧ t.reg8 k = s.reg8 k - 1 ∧ t.dk = s.dk ∧
      t.ps = if s.reg8 k = 1 then s.ps else BitVec.ofInt 16 (s.ps.toNat + p.toInt)) ∧
  (∀ (adr : Word) (p v : Byte) (s : State), s.read8 adr = .ok v →
    ∃ t, exec (.dbnzMem p adr) s = .next t ∧ t.read8 adr = .ok (v - 1) ∧ t.dk = s.dk ∧
      t.ps = if v = 1 then s.ps else BitVec.ofInt 16 (s.ps.toNat + p.toInt))

/-! ### Interrupts -/

/-- With K disabling no interrupt is accepted, and a pending request stays pending over every step
(60_exceptions section 2, decision D39). -/
def Obligations.MaskedRequestWaits : Prop :=
  ∀ s : State, s.dk.k = false →
    s.pollIrq.irqAccepted = false ∧
    (s.irqPending = true → ∀ t, step s = .next t → t.irqPending = true)

/-- With K enabling and a request pending, a machine that has an interrupt source accepts it: the request is
cleared, the frame pushed with PS as return address, K disabled, control at IRQ_ENTRY; a machine without a
source runs the next instruction (60_exceptions sections 2 and 3, decisions D38, D39, logs 7, 9 and 21). -/
def Obligations.PendingRequestIsAccepted : Prop :=
  ∀ s : State, s.dk.k = true → s.irqPending = true →
    (Config.irqPresent = true ∧
      ∃ t v h l, step s = .next t ∧ t.irqPending = false ∧
        t.ps = Config.irqEntry ∧ t.yg = s.yg - 3 ∧ t.dk = { s.dk with k := false } ∧
        t.read8 t.yg = .ok v ∧ t.read8 (t.yg + 1) = .ok h ∧ t.read8 (t.yg + 2) = .ok l ∧
        s.ps = h ++ l ∧ v < 64 ∧
        s.dk = { e := v.getLsbD 0, y := v.getLsbD 1, n := v.getLsbD 2, s := v.getLsbD 3,
                 t := v.getLsbD 4, k := v.getLsbD 5 } ∧
        (∀ k, t.reg8 k = s.reg8 k) ∧ t.sk = s.sk ∧
        ∀ a, a ∉ [s.yg - 1, s.yg - 2, s.yg - 3] → t.read8 a = s.read8 a) ∨
    (Config.irqPresent = false ∧ s.pollIrq.irqAccepted = false)
end

