-- ==== Sys2Proof/Laws/Bits.lean ====
section
/-! SUPPORT. The two halves of a word, and the byte of DK. -/

namespace Sys2Proof.Machine

-- One thread, so that a check of the whole package stays within its memory.
set_option Elab.async false

@[simp] theorem hi8_word (h l : Byte) : hi8 (word h l) = h := by
  simp only [hi8, word]
  ext i hi
  rw [BitVec.getElem_extractLsb', BitVec.getLsbD_append, if_neg (by omega),
    show 8 + i - 8 = i by omega, BitVec.getLsbD_eq_getElem hi]

@[simp] theorem lo8_word (h l : Byte) : lo8 (word h l) = l := by
  simp only [lo8, word]
  ext i hi
  rw [BitVec.getElem_extractLsb', BitVec.getLsbD_append, if_pos (by omega),
    show 0 + i = i by omega, BitVec.getLsbD_eq_getElem hi]

@[simp] theorem word_hi8_lo8 (v : Word) : word (hi8 v) (lo8 v) = v := by
  simp only [word, hi8, lo8]
  ext i hi
  simp only [BitVec.getElem_append, BitVec.getElem_extractLsb']
  split
  · simp [BitVec.getLsbD_eq_getElem hi]
  · rw [show 8 + (i - 8) = i by omega, BitVec.getLsbD_eq_getElem hi]

/-- The byte of DK holds the six flags (rule R28). -/
@[simp] theorem dkOfByte_dkByte (dk : Status) : dkOfByte (dkByte dk) = dk := by
  obtain ⟨e, y, s, n, t, k⟩ := dk
  revert e y s n t k
  decide

/-- A byte read as DK and written again loses bits 6 and 7 only (rule R28). -/
theorem dkByte_dkOfByte (v : Byte) : dkByte (dkOfByte v) = v &&& 0x3F := by
  revert v
  decide

end Sys2Proof.Machine
end

