-- ==== Sys2Proof/Laws/Decode.lean ====
section
/-! SUPPORT. What the pieces of the decoder answer on the pieces of an encoding. -/

namespace Sys2Proof

-- One thread, so that a check of the whole package stays within its memory.
set_option Elab.async false

open Machine

/-- The addressing method of a memory operand. -/
def memMethod : Mem → Method
  | .direct _ => .d
  | .indirect => .k
  | .indexed _ => .s
  | .incremental _ _ => .r
  | .decremental _ _ => .z
  | .indirectSk _ => .u
  | .indexedYg _ => .y

theorem methodOfCode_memCode (m : Mem) : methodOfCode (memCode m) = memMethod m := by
  cases m <;> rfl

theorem decodeMem_memBytes (m : Mem) (base : Nat) (mk : Mem → Instr) (rest : List Byte) :
    decodeMem (memMethod m) base mk (memBytes m ++ rest) =
      .done (mk m) (base + (memBytes m).length) := by
  cases m with
  | direct adr =>
    have h := word_hi8_lo8 adr
    simp only [decodeMem, memMethod, memBytes, List.cons_append, List.nil_append, h]
    rfl
  | _ => rfl

@[simp] theorem field20_append (top : BitVec 5) (f : BitVec 3) : field20 (top ++ f) = f := by
  revert top f
  decide

@[simp] theorem field73_append (top : BitVec 5) (f : BitVec 3) : field73 (top ++ f) = top := by
  revert top f
  decide

@[simp] theorem field75_append (m : BitVec 3) (low : BitVec 5) : field75 (m ++ low) = m := by
  revert m low
  decide

@[simp] theorem low5_append (m : BitVec 3) (low : BitVec 5) :
    (m ++ low : Byte).extractLsb' 0 5 = low := by
  revert m low
  decide

@[simp] theorem field75_methodRegByte (m r : BitVec 3) : field75 (methodRegByte m r) = m := by
  revert m r
  decide

@[simp] theorem field20_methodRegByte (m r : BitVec 3) : field20 (methodRegByte m r) = r := by
  revert m r
  decide

@[simp] theorem mid_methodRegByte (m r : BitVec 3) :
    (methodRegByte m r).extractLsb' 3 2 = (0 : BitVec 2) := by
  revert m r
  decide

@[simp] theorem bitNumber_fieldByte (n : BitVec 3) : bitNumber (fieldByte 0 n) = some n := by
  simp [bitNumber, fieldByte]

@[simp] theorem reg8OfCode_reg8Code (k : Reg8) : reg8OfCode (reg8Code k) = some k := by
  cases k <;> rfl

@[simp] theorem reg16OfCode_reg16Code (k : Reg16) : reg16OfCode (reg16Code k) = some k := by
  cases k <;> rfl

@[simp] theorem accOfCode_accCode (d : Acc) : accOfCode (accCode d) = some d := by
  cases d <;> rfl

@[simp] theorem flagOfCode_flagCode (f : Flag) : flagOfCode (flagCode f) = some f := by
  cases f <;> rfl

@[simp] theorem decodeRegByte_fieldByte (k : Reg8) (mk : Reg8 → Instr) (len : Nat) :
    decodeRegByte (fieldByte 0 (reg8Code k)) mk len = .done (mk k) len := by
  simp [decodeRegByte, fieldByte]

theorem memMethod_mem (m : Mem) : memMethod m ∈ methodsMem := by
  cases m <;> simp [memMethod, methodsMem]

theorem methodLow_memCode (low : BitVec 5) (m : Mem) :
    methodLow low (memCode m ++ low) = some (memMethod m) := by
  simp [methodLow, methodOfCode_memCode, memMethod_mem]

/-- A second byte of rule R88 with a method of the operation. -/
theorem methodByte_memCode {α : Type} (ms : List Method) (reg : BitVec 3 → Option α) (m : Mem)
    (r : BitVec 3) (h : memMethod m ∈ ms) :
    methodByte ms reg (methodRegByte (memCode m) r) = (reg r).map (fun x => (memMethod m, x)) := by
  simp [methodByte, methodOfCode_memCode, h]

/-- A second byte of rule R88 in immediate form. -/
theorem methodByte_imm {α : Type} (ms : List Method) (reg : BitVec 3 → Option α) (r : BitVec 3)
    (h : Method.v ∈ ms) :
    methodByte ms reg (methodRegByte 0 r) = (reg r).map (fun x => (Method.v, x)) := by
  have h0 : methodOfCode (0#3) = .v := rfl
  simp [methodByte, h0, h]

end Sys2Proof
end

