-- ==== Sys2Proof/Laws/State.lean ====
section
/-! SUPPORT. What each named update of the state leaves alone and what it writes, one lemma a field, so
that no proof unfolds a record update. -/

namespace Sys2Proof.Machine

-- One thread, so that a check of the whole package stays within its memory.
set_option Elab.async false

/-! ### setReg8 -/

@[simp] theorem State.setReg8_sk (s : State) (k : Reg8) (v : Byte) :
    (s.setReg8 k v).sk = s.sk := by cases k <;> rfl
@[simp] theorem State.setReg8_yg (s : State) (k : Reg8) (v : Byte) :
    (s.setReg8 k v).yg = s.yg := by cases k <;> rfl
@[simp] theorem State.setReg8_ps (s : State) (k : Reg8) (v : Byte) :
    (s.setReg8 k v).ps = s.ps := by cases k <;> rfl
@[simp] theorem State.setReg8_dk (s : State) (k : Reg8) (v : Byte) :
    (s.setReg8 k v).dk = s.dk := by cases k <;> rfl
@[simp] theorem State.setReg8_mem (s : State) (k : Reg8) (v : Byte) :
    (s.setReg8 k v).mem = s.mem := by cases k <;> rfl
@[simp] theorem State.setReg8_irqPending (s : State) (k : Reg8) (v : Byte) :
    (s.setReg8 k v).irqPending = s.irqPending := by cases k <;> rfl
@[simp] theorem State.setReg8_draws (s : State) (k : Reg8) (v : Byte) :
    (s.setReg8 k v).draws = s.draws := by cases k <;> rfl
@[simp] theorem State.setReg8_boundary (s : State) (k : Reg8) (v : Byte) :
    (s.setReg8 k v).boundary = s.boundary := by cases k <;> rfl

/-! ### setReg16 -/

@[simp] theorem State.setReg16_ps (s : State) (k : Reg16) (v : Word) :
    (s.setReg16 k v).ps = s.ps := by cases k <;> rfl
@[simp] theorem State.setReg16_dk (s : State) (k : Reg16) (v : Word) :
    (s.setReg16 k v).dk = s.dk := by cases k <;> rfl
@[simp] theorem State.setReg16_mem (s : State) (k : Reg16) (v : Word) :
    (s.setReg16 k v).mem = s.mem := by cases k <;> rfl
@[simp] theorem State.setReg16_irqPending (s : State) (k : Reg16) (v : Word) :
    (s.setReg16 k v).irqPending = s.irqPending := by cases k <;> rfl
@[simp] theorem State.setReg16_draws (s : State) (k : Reg16) (v : Word) :
    (s.setReg16 k v).draws = s.draws := by cases k <;> rfl
@[simp] theorem State.setReg16_boundary (s : State) (k : Reg16) (v : Word) :
    (s.setReg16 k v).boundary = s.boundary := by cases k <;> rfl

/-! ### putFlag -/

@[simp] theorem State.putFlag_a (s : State) (f : Flag) (b : Bool) :
    (s.putFlag f b).a = s.a := rfl
@[simp] theorem State.putFlag_b (s : State) (f : Flag) (b : Bool) :
    (s.putFlag f b).b = s.b := rfl
@[simp] theorem State.putFlag_c (s : State) (f : Flag) (b : Bool) :
    (s.putFlag f b).c = s.c := rfl
@[simp] theorem State.putFlag_d (s : State) (f : Flag) (b : Bool) :
    (s.putFlag f b).d = s.d := rfl
@[simp] theorem State.putFlag_sk (s : State) (f : Flag) (b : Bool) :
    (s.putFlag f b).sk = s.sk := rfl
@[simp] theorem State.putFlag_yg (s : State) (f : Flag) (b : Bool) :
    (s.putFlag f b).yg = s.yg := rfl
@[simp] theorem State.putFlag_ps (s : State) (f : Flag) (b : Bool) :
    (s.putFlag f b).ps = s.ps := rfl
@[simp] theorem State.putFlag_mem (s : State) (f : Flag) (b : Bool) :
    (s.putFlag f b).mem = s.mem := rfl
@[simp] theorem State.putFlag_irqPending (s : State) (f : Flag) (b : Bool) :
    (s.putFlag f b).irqPending = s.irqPending := rfl
@[simp] theorem State.putFlag_draws (s : State) (f : Flag) (b : Bool) :
    (s.putFlag f b).draws = s.draws := rfl
@[simp] theorem State.putFlag_boundary (s : State) (f : Flag) (b : Bool) :
    (s.putFlag f b).boundary = s.boundary := rfl

/-! ### putK -/

@[simp] theorem State.putK_a (s : State) (b : Bool) :
    (s.putK b).a = s.a := rfl
@[simp] theorem State.putK_b (s : State) (b : Bool) :
    (s.putK b).b = s.b := rfl
@[simp] theorem State.putK_c (s : State) (b : Bool) :
    (s.putK b).c = s.c := rfl
@[simp] theorem State.putK_d (s : State) (b : Bool) :
    (s.putK b).d = s.d := rfl
@[simp] theorem State.putK_sk (s : State) (b : Bool) :
    (s.putK b).sk = s.sk := rfl
@[simp] theorem State.putK_yg (s : State) (b : Bool) :
    (s.putK b).yg = s.yg := rfl
@[simp] theorem State.putK_ps (s : State) (b : Bool) :
    (s.putK b).ps = s.ps := rfl
@[simp] theorem State.putK_mem (s : State) (b : Bool) :
    (s.putK b).mem = s.mem := rfl
@[simp] theorem State.putK_irqPending (s : State) (b : Bool) :
    (s.putK b).irqPending = s.irqPending := rfl
@[simp] theorem State.putK_draws (s : State) (b : Bool) :
    (s.putK b).draws = s.draws := rfl
@[simp] theorem State.putK_boundary (s : State) (b : Bool) :
    (s.putK b).boundary = s.boundary := rfl

/-! ### putStatus -/

@[simp] theorem State.putStatus_a (s : State) (dk : Status) :
    (s.putStatus dk).a = s.a := rfl
@[simp] theorem State.putStatus_b (s : State) (dk : Status) :
    (s.putStatus dk).b = s.b := rfl
@[simp] theorem State.putStatus_c (s : State) (dk : Status) :
    (s.putStatus dk).c = s.c := rfl
@[simp] theorem State.putStatus_d (s : State) (dk : Status) :
    (s.putStatus dk).d = s.d := rfl
@[simp] theorem State.putStatus_sk (s : State) (dk : Status) :
    (s.putStatus dk).sk = s.sk := rfl
@[simp] theorem State.putStatus_yg (s : State) (dk : Status) :
    (s.putStatus dk).yg = s.yg := rfl
@[simp] theorem State.putStatus_ps (s : State) (dk : Status) :
    (s.putStatus dk).ps = s.ps := rfl
@[simp] theorem State.putStatus_mem (s : State) (dk : Status) :
    (s.putStatus dk).mem = s.mem := rfl
@[simp] theorem State.putStatus_irqPending (s : State) (dk : Status) :
    (s.putStatus dk).irqPending = s.irqPending := rfl
@[simp] theorem State.putStatus_draws (s : State) (dk : Status) :
    (s.putStatus dk).draws = s.draws := rfl
@[simp] theorem State.putStatus_boundary (s : State) (dk : Status) :
    (s.putStatus dk).boundary = s.boundary := rfl

/-! ### drawFlag -/

@[simp] theorem State.drawFlag_a (s : State) (f : Flag) :
    (s.drawFlag f).a = s.a := rfl
@[simp] theorem State.drawFlag_b (s : State) (f : Flag) :
    (s.drawFlag f).b = s.b := rfl
@[simp] theorem State.drawFlag_c (s : State) (f : Flag) :
    (s.drawFlag f).c = s.c := rfl
@[simp] theorem State.drawFlag_d (s : State) (f : Flag) :
    (s.drawFlag f).d = s.d := rfl
@[simp] theorem State.drawFlag_sk (s : State) (f : Flag) :
    (s.drawFlag f).sk = s.sk := rfl
@[simp] theorem State.drawFlag_yg (s : State) (f : Flag) :
    (s.drawFlag f).yg = s.yg := rfl
@[simp] theorem State.drawFlag_ps (s : State) (f : Flag) :
    (s.drawFlag f).ps = s.ps := rfl
@[simp] theorem State.drawFlag_mem (s : State) (f : Flag) :
    (s.drawFlag f).mem = s.mem := rfl
@[simp] theorem State.drawFlag_irqPending (s : State) (f : Flag) :
    (s.drawFlag f).irqPending = s.irqPending := rfl
@[simp] theorem State.drawFlag_boundary (s : State) (f : Flag) :
    (s.drawFlag f).boundary = s.boundary := rfl

/-! ### drawAll -/

@[simp] theorem State.drawAll_a (s : State) :
    (s.drawAll).a = s.a := by simp [State.drawAll]
@[simp] theorem State.drawAll_b (s : State) :
    (s.drawAll).b = s.b := by simp [State.drawAll]
@[simp] theorem State.drawAll_c (s : State) :
    (s.drawAll).c = s.c := by simp [State.drawAll]
@[simp] theorem State.drawAll_d (s : State) :
    (s.drawAll).d = s.d := by simp [State.drawAll]
@[simp] theorem State.drawAll_sk (s : State) :
    (s.drawAll).sk = s.sk := by simp [State.drawAll]
@[simp] theorem State.drawAll_yg (s : State) :
    (s.drawAll).yg = s.yg := by simp [State.drawAll]
@[simp] theorem State.drawAll_ps (s : State) :
    (s.drawAll).ps = s.ps := by simp [State.drawAll]
@[simp] theorem State.drawAll_mem (s : State) :
    (s.drawAll).mem = s.mem := by simp [State.drawAll]
@[simp] theorem State.drawAll_irqPending (s : State) :
    (s.drawAll).irqPending = s.irqPending := by simp [State.drawAll]
@[simp] theorem State.drawAll_boundary (s : State) :
    (s.drawAll).boundary = s.boundary := by simp [State.drawAll]

/-! ### jump -/

@[simp] theorem State.jump_a (s : State) (w : Word) :
    (s.jump w).a = s.a := rfl
@[simp] theorem State.jump_b (s : State) (w : Word) :
    (s.jump w).b = s.b := rfl
@[simp] theorem State.jump_c (s : State) (w : Word) :
    (s.jump w).c = s.c := rfl
@[simp] theorem State.jump_d (s : State) (w : Word) :
    (s.jump w).d = s.d := rfl
@[simp] theorem State.jump_sk (s : State) (w : Word) :
    (s.jump w).sk = s.sk := rfl
@[simp] theorem State.jump_yg (s : State) (w : Word) :
    (s.jump w).yg = s.yg := rfl
@[simp] theorem State.jump_dk (s : State) (w : Word) :
    (s.jump w).dk = s.dk := rfl
@[simp] theorem State.jump_mem (s : State) (w : Word) :
    (s.jump w).mem = s.mem := rfl
@[simp] theorem State.jump_irqPending (s : State) (w : Word) :
    (s.jump w).irqPending = s.irqPending := rfl
@[simp] theorem State.jump_draws (s : State) (w : Word) :
    (s.jump w).draws = s.draws := rfl
@[simp] theorem State.jump_boundary (s : State) (w : Word) :
    (s.jump w).boundary = s.boundary := rfl

/-! ### advance -/

@[simp] theorem State.advance_a (s : State) (n : Nat) :
    (s.advance n).a = s.a := rfl
@[simp] theorem State.advance_b (s : State) (n : Nat) :
    (s.advance n).b = s.b := rfl
@[simp] theorem State.advance_c (s : State) (n : Nat) :
    (s.advance n).c = s.c := rfl
@[simp] theorem State.advance_d (s : State) (n : Nat) :
    (s.advance n).d = s.d := rfl
@[simp] theorem State.advance_sk (s : State) (n : Nat) :
    (s.advance n).sk = s.sk := rfl
@[simp] theorem State.advance_yg (s : State) (n : Nat) :
    (s.advance n).yg = s.yg := rfl
@[simp] theorem State.advance_dk (s : State) (n : Nat) :
    (s.advance n).dk = s.dk := rfl
@[simp] theorem State.advance_mem (s : State) (n : Nat) :
    (s.advance n).mem = s.mem := rfl
@[simp] theorem State.advance_irqPending (s : State) (n : Nat) :
    (s.advance n).irqPending = s.irqPending := rfl
@[simp] theorem State.advance_draws (s : State) (n : Nat) :
    (s.advance n).draws = s.draws := rfl
@[simp] theorem State.advance_boundary (s : State) (n : Nat) :
    (s.advance n).boundary = s.boundary := rfl

/-! ### stepSk -/

@[simp] theorem State.stepSk_a (s : State) (m : Mem) :
    (s.stepSk m).a = s.a := by cases m <;> rfl
@[simp] theorem State.stepSk_b (s : State) (m : Mem) :
    (s.stepSk m).b = s.b := by cases m <;> rfl
@[simp] theorem State.stepSk_c (s : State) (m : Mem) :
    (s.stepSk m).c = s.c := by cases m <;> rfl
@[simp] theorem State.stepSk_d (s : State) (m : Mem) :
    (s.stepSk m).d = s.d := by cases m <;> rfl
@[simp] theorem State.stepSk_yg (s : State) (m : Mem) :
    (s.stepSk m).yg = s.yg := by cases m <;> rfl
@[simp] theorem State.stepSk_ps (s : State) (m : Mem) :
    (s.stepSk m).ps = s.ps := by cases m <;> rfl
@[simp] theorem State.stepSk_dk (s : State) (m : Mem) :
    (s.stepSk m).dk = s.dk := by cases m <;> rfl
@[simp] theorem State.stepSk_mem (s : State) (m : Mem) :
    (s.stepSk m).mem = s.mem := by cases m <;> rfl
@[simp] theorem State.stepSk_irqPending (s : State) (m : Mem) :
    (s.stepSk m).irqPending = s.irqPending := by cases m <;> rfl
@[simp] theorem State.stepSk_draws (s : State) (m : Mem) :
    (s.stepSk m).draws = s.draws := by cases m <;> rfl
@[simp] theorem State.stepSk_boundary (s : State) (m : Mem) :
    (s.stepSk m).boundary = s.boundary := by cases m <;> rfl

/-! ### poke -/

@[simp] theorem State.poke_a (s : State) (addr : Word) (v : Byte) :
    (s.poke addr v).a = s.a := rfl
@[simp] theorem State.poke_b (s : State) (addr : Word) (v : Byte) :
    (s.poke addr v).b = s.b := rfl
@[simp] theorem State.poke_c (s : State) (addr : Word) (v : Byte) :
    (s.poke addr v).c = s.c := rfl
@[simp] theorem State.poke_d (s : State) (addr : Word) (v : Byte) :
    (s.poke addr v).d = s.d := rfl
@[simp] theorem State.poke_sk (s : State) (addr : Word) (v : Byte) :
    (s.poke addr v).sk = s.sk := rfl
@[simp] theorem State.poke_yg (s : State) (addr : Word) (v : Byte) :
    (s.poke addr v).yg = s.yg := rfl
@[simp] theorem State.poke_ps (s : State) (addr : Word) (v : Byte) :
    (s.poke addr v).ps = s.ps := rfl
@[simp] theorem State.poke_dk (s : State) (addr : Word) (v : Byte) :
    (s.poke addr v).dk = s.dk := rfl
@[simp] theorem State.poke_irqPending (s : State) (addr : Word) (v : Byte) :
    (s.poke addr v).irqPending = s.irqPending := rfl
@[simp] theorem State.poke_draws (s : State) (addr : Word) (v : Byte) :
    (s.poke addr v).draws = s.draws := rfl
@[simp] theorem State.poke_boundary (s : State) (addr : Word) (v : Byte) :
    (s.poke addr v).boundary = s.boundary := rfl

/-! ### pollIrq -/

@[simp] theorem State.pollIrq_a (s : State) :
    (s.pollIrq).a = s.a := rfl
@[simp] theorem State.pollIrq_b (s : State) :
    (s.pollIrq).b = s.b := rfl
@[simp] theorem State.pollIrq_c (s : State) :
    (s.pollIrq).c = s.c := rfl
@[simp] theorem State.pollIrq_d (s : State) :
    (s.pollIrq).d = s.d := rfl
@[simp] theorem State.pollIrq_sk (s : State) :
    (s.pollIrq).sk = s.sk := rfl
@[simp] theorem State.pollIrq_yg (s : State) :
    (s.pollIrq).yg = s.yg := rfl
@[simp] theorem State.pollIrq_ps (s : State) :
    (s.pollIrq).ps = s.ps := rfl
@[simp] theorem State.pollIrq_dk (s : State) :
    (s.pollIrq).dk = s.dk := rfl
@[simp] theorem State.pollIrq_mem (s : State) :
    (s.pollIrq).mem = s.mem := rfl
@[simp] theorem State.pollIrq_draws (s : State) :
    (s.pollIrq).draws = s.draws := rfl

/-! ### post8 -/

@[simp] theorem State.post8_a (s : State) (x : Src8) : (s.post8 x).a = s.a := by
  cases x <;> simp [State.post8]
@[simp] theorem State.post8_b (s : State) (x : Src8) : (s.post8 x).b = s.b := by
  cases x <;> simp [State.post8]
@[simp] theorem State.post8_c (s : State) (x : Src8) : (s.post8 x).c = s.c := by
  cases x <;> simp [State.post8]
@[simp] theorem State.post8_d (s : State) (x : Src8) : (s.post8 x).d = s.d := by
  cases x <;> simp [State.post8]
@[simp] theorem State.post8_yg (s : State) (x : Src8) : (s.post8 x).yg = s.yg := by
  cases x <;> simp [State.post8]
@[simp] theorem State.post8_ps (s : State) (x : Src8) : (s.post8 x).ps = s.ps := by
  cases x <;> simp [State.post8]
@[simp] theorem State.post8_dk (s : State) (x : Src8) : (s.post8 x).dk = s.dk := by
  cases x <;> simp [State.post8]
@[simp] theorem State.post8_mem (s : State) (x : Src8) : (s.post8 x).mem = s.mem := by
  cases x <;> simp [State.post8]
@[simp] theorem State.post8_irqPending (s : State) (x : Src8) : (s.post8 x).irqPending = s.irqPending := by
  cases x <;> simp [State.post8]
@[simp] theorem State.post8_draws (s : State) (x : Src8) : (s.post8 x).draws = s.draws := by
  cases x <;> simp [State.post8]
@[simp] theorem State.post8_boundary (s : State) (x : Src8) : (s.post8 x).boundary = s.boundary := by
  cases x <;> simp [State.post8]

/-! ### post16 -/

@[simp] theorem State.post16_a (s : State) (x : Src16) : (s.post16 x).a = s.a := by
  cases x <;> simp [State.post16]
@[simp] theorem State.post16_b (s : State) (x : Src16) : (s.post16 x).b = s.b := by
  cases x <;> simp [State.post16]
@[simp] theorem State.post16_c (s : State) (x : Src16) : (s.post16 x).c = s.c := by
  cases x <;> simp [State.post16]
@[simp] theorem State.post16_d (s : State) (x : Src16) : (s.post16 x).d = s.d := by
  cases x <;> simp [State.post16]
@[simp] theorem State.post16_yg (s : State) (x : Src16) : (s.post16 x).yg = s.yg := by
  cases x <;> simp [State.post16]
@[simp] theorem State.post16_ps (s : State) (x : Src16) : (s.post16 x).ps = s.ps := by
  cases x <;> simp [State.post16]
@[simp] theorem State.post16_dk (s : State) (x : Src16) : (s.post16 x).dk = s.dk := by
  cases x <;> simp [State.post16]
@[simp] theorem State.post16_mem (s : State) (x : Src16) : (s.post16 x).mem = s.mem := by
  cases x <;> simp [State.post16]
@[simp] theorem State.post16_irqPending (s : State) (x : Src16) : (s.post16 x).irqPending = s.irqPending := by
  cases x <;> simp [State.post16]
@[simp] theorem State.post16_draws (s : State) (x : Src16) : (s.post16 x).draws = s.draws := by
  cases x <;> simp [State.post16]
@[simp] theorem State.post16_boundary (s : State) (x : Src16) : (s.post16 x).boundary = s.boundary := by
  cases x <;> simp [State.post16]

/-! ### What is written -/

@[simp] theorem State.poke_mem (s : State) (addr : Word) (v : Byte) :
    (s.poke addr v).mem = s.mem.write addr.toNat v := rfl
@[simp] theorem State.putStatus_dk (s : State) (dk : Status) : (s.putStatus dk).dk = dk := rfl
@[simp] theorem State.jump_ps (s : State) (w : Word) : (s.jump w).ps = w := rfl
@[simp] theorem State.advance_ps (s : State) (n : Nat) :
    (s.advance n).ps = s.ps + BitVec.ofNat 16 n := rfl
@[simp] theorem State.putFlag_dk (s : State) (f : Flag) (b : Bool) :
    (s.putFlag f b).dk = s.dk.put f b := rfl
@[simp] theorem State.drawFlag_dk (s : State) (f : Flag) :
    (s.drawFlag f).dk = s.dk.put f (Config.unspecifiedBit s.draws) := rfl
@[simp] theorem Status.put_k (dk : Status) (f : Flag) (b : Bool) : (dk.put f b).k = dk.k := by
  cases f <;> rfl
@[simp] theorem Status.get_e (dk : Status) : dk.get .e = dk.e := rfl
@[simp] theorem Status.put_e (dk : Status) (b : Bool) : dk.put .e b = { dk with e := b } := rfl
@[simp] theorem Status.get_y (dk : Status) : dk.get .y = dk.y := rfl
@[simp] theorem Status.put_y (dk : Status) (b : Bool) : dk.put .y b = { dk with y := b } := rfl
@[simp] theorem Status.get_n (dk : Status) : dk.get .n = dk.n := rfl
@[simp] theorem Status.put_n (dk : Status) (b : Bool) : dk.put .n b = { dk with n := b } := rfl
@[simp] theorem Status.get_s (dk : Status) : dk.get .s = dk.s := rfl
@[simp] theorem Status.put_s (dk : Status) (b : Bool) : dk.put .s b = { dk with s := b } := rfl
@[simp] theorem Status.get_t (dk : Status) : dk.get .t = dk.t := rfl
@[simp] theorem Status.put_t (dk : Status) (b : Bool) : dk.put .t b = { dk with t := b } := rfl
theorem Status.get_put (dk : Status) (f g : Flag) (b : Bool) :
    (dk.put f b).get g = if g = f then b else dk.get g := by
  cases f <;> cases g <;> rfl
/-- A flag depends on DK only. -/
theorem State.flag_congr {s t : State} (h : t.dk = s.dk) (f : Flag) : t.flag f = s.flag f := by
  simp only [State.flag, h]
/-- The five flags after MUL and DIV (rules R139, R140): five draws, K kept. -/
theorem State.drawAll_dk (s : State) :
    s.drawAll.dk =
      { t := Config.unspecifiedBit s.draws, s := Config.unspecifiedBit (s.draws + 1)
        n := Config.unspecifiedBit (s.draws + 2), y := Config.unspecifiedBit (s.draws + 3)
        e := Config.unspecifiedBit (s.draws + 4), k := s.dk.k } := rfl
@[simp] theorem State.putK_dk (s : State) (b : Bool) : (s.putK b).dk = { s.dk with k := b } := rfl
@[simp] theorem State.drawAll_k (s : State) : s.drawAll.dk.k = s.dk.k := by
  simp [State.drawAll]
@[simp] theorem State.drawFlag_draws (s : State) (f : Flag) :
    (s.drawFlag f).draws = s.draws + 1 := rfl
@[simp] theorem State.drawAll_draws (s : State) : s.drawAll.draws = s.draws + 5 := by
  simp [State.drawAll]

theorem State.flag_putFlag (s : State) (f g : Flag) (b : Bool) :
    (s.putFlag f b).flag g = if g = f then b else s.flag g := by
  cases f <;> cases g <;> rfl

theorem State.flag_drawFlag (s : State) (f g : Flag) :
    (s.drawFlag f).flag g = if g = f then Config.unspecifiedBit s.draws else s.flag g := by
  cases f <;> cases g <;> rfl

theorem State.reg8_setReg8 (s : State) (k j : Reg8) (v : Byte) :
    (s.setReg8 k v).reg8 j = if j = k then v else s.reg8 j := by
  cases k <;> cases j <;> rfl

@[simp] theorem State.reg8_setReg8_self (s : State) (k : Reg8) (v : Byte) :
    (s.setReg8 k v).reg8 k = v := by
  cases k <;> rfl

@[simp] theorem State.reg8_putStatus (s : State) (dk : Status) (k : Reg8) :
    (s.putStatus dk).reg8 k = s.reg8 k := by cases k <;> rfl
@[simp] theorem State.reg8_drawFlag (s : State) (f : Flag) (k : Reg8) :
    (s.drawFlag f).reg8 k = s.reg8 k := by cases f <;> cases k <;> rfl
@[simp] theorem State.reg8_drawAll (s : State) (k : Reg8) : s.drawAll.reg8 k = s.reg8 k := by
  simp [State.drawAll]
@[simp] theorem State.reg8_jump (s : State) (w : Word) (k : Reg8) : (s.jump w).reg8 k = s.reg8 k := by
  cases k <;> rfl
@[simp] theorem State.reg8_stepSk (s : State) (m : Mem) (k : Reg8) :
    (s.stepSk m).reg8 k = s.reg8 k := by cases m <;> cases k <;> rfl
@[simp] theorem State.reg8_post8 (s : State) (x : Src8) (k : Reg8) :
    (s.post8 x).reg8 k = s.reg8 k := by cases x <;> simp [State.post8]
@[simp] theorem State.reg8_post16 (s : State) (x : Src16) (k : Reg8) :
    (s.post16 x).reg8 k = s.reg8 k := by cases x <;> simp [State.post16]

@[simp] theorem State.reg8_poke (s : State) (addr : Word) (v : Byte) (k : Reg8) :
    (s.poke addr v).reg8 k = s.reg8 k := by cases k <;> rfl
@[simp] theorem State.reg8_putFlag (s : State) (f : Flag) (b : Bool) (k : Reg8) :
    (s.putFlag f b).reg8 k = s.reg8 k := by cases f <;> cases k <;> rfl
@[simp] theorem State.reg8_putK (s : State) (b : Bool) (k : Reg8) :
    (s.putK b).reg8 k = s.reg8 k := by cases k <;> rfl
@[simp] theorem State.reg8_advance (s : State) (n : Nat) (k : Reg8) :
    (s.advance n).reg8 k = s.reg8 k := by cases k <;> rfl

end Sys2Proof.Machine
end

