-- ==== Sys2Proof/Laws/Flags.lean ====
section
/-! SUPPORT. The exact results and flag computations of Machine/Flags.lean said with modular addition, and
with the two's complement values. -/

namespace Sys2Proof.Machine

-- One thread, so that a check of the whole package stays within its memory.
set_option Elab.async false

theorem msb_eq_toNat8 (b : Byte) : b.msb = decide (128 ≤ b.toNat) := by
  simp [BitVec.msb_eq_decide]

theorem msb_eq_toNat16 (b : Word) : b.msb = decide (32768 ≤ b.toNat) := by
  simp [BitVec.msb_eq_decide]

theorem toInt_eq8 (b : Byte) :
    b.toInt = if b.toNat < 128 then (b.toNat : Int) else b.toNat - 256 := by
  simp only [BitVec.toInt]
  split <;> split <;> omega

theorem toInt_eq16 (b : Word) :
    b.toInt = if b.toNat < 32768 then (b.toNat : Int) else b.toNat - 65536 := by
  simp only [BitVec.toInt]
  split <;> split <;> omega

/-- `Zf` of rule R30. -/
theorem beq_zero8 (r : Byte) : (r == 0) = decide (r = 0) := by
  rw [Bool.eq_iff_iff, beq_iff_eq, decide_eq_true_eq]

/-- `Zf` of rule R30. -/
theorem beq_zero16 (r : Word) : (r == 0) = decide (r = 0) := by
  rw [Bool.eq_iff_iff, beq_iff_eq, decide_eq_true_eq]

/-- `Nf` of rule R30 is the sign. -/
theorem msb_eq_neg8 (r : Byte) : r.msb = decide (r.toInt < 0) := by
  rw [msb_eq_toNat8, toInt_eq8, decide_eq_decide]
  have := r.isLt
  split <;> omega

/-- `Nf` of rule R30 is the sign. -/
theorem msb_eq_neg16 (r : Word) : r.msb = decide (r.toInt < 0) := by
  rw [msb_eq_toNat16, toInt_eq16, decide_eq_decide]
  have := r.isLt
  split <;> omega

/-! ### Results -/

theorem add8_eq (a b : Byte) (c : Bool) : add8 a b c = a + b + (if c then 1 else 0) := by
  apply BitVec.eq_of_toNat_eq
  cases c <;> simp [add8, bitNat]

theorem sub8_eq (a b : Byte) (c : Bool) : sub8 a b c = a - b - (if c then 1 else 0) := by
  apply BitVec.eq_of_toNat_eq
  have := a.isLt
  have := b.isLt
  cases c <;> simp [sub8, bitNat, BitVec.toNat_sub] <;> omega

theorem add16_eq (a b : Word) : add16 a b = a + b := by
  apply BitVec.eq_of_toNat_eq
  simp [add16]

theorem sub16_eq (a b : Word) : sub16 a b = a - b := by
  apply BitVec.eq_of_toNat_eq
  have := a.isLt
  have := b.isLt
  simp [sub16, BitVec.toNat_sub]
  omega

/-! ### T is the overflow of the exact signed result (rules R131, R132) -/

theorem add8_overflow (a b : Byte) (c : Bool) :
    (a.msb == b.msb && (add8 a b c).msb != a.msb) =
      decide (a.toInt + b.toInt + c.toNat < -128 ∨ 127 < a.toInt + b.toInt + c.toNat) := by
  simp only [msb_eq_toNat8, toInt_eq8, add8, BitVec.toNat_ofNat, bitNat]
  have ha := a.isLt
  have hb := b.isLt
  generalize a.toNat = x at *
  generalize b.toNat = y at *
  rw [Bool.eq_iff_iff]
  cases c <;> simp only [Bool.toNat_true, Bool.toNat_false, Bool.and_eq_true, beq_iff_eq,
    bne_iff_ne, ne_eq, decide_eq_decide, decide_eq_true_eq] <;> split <;> split <;> omega

theorem sub8_overflow (a b : Byte) (c : Bool) :
    (a.msb != b.msb && (sub8 a b c).msb != a.msb) =
      decide (a.toInt - b.toInt - c.toNat < -128 ∨ 127 < a.toInt - b.toInt - c.toNat) := by
  simp only [msb_eq_toNat8, toInt_eq8, sub8, BitVec.toNat_ofNat, bitNat]
  have ha := a.isLt
  have hb := b.isLt
  generalize a.toNat = x at *
  generalize b.toNat = y at *
  rw [Bool.eq_iff_iff]
  cases c <;> simp only [Bool.toNat_true, Bool.toNat_false, Bool.and_eq_true, bne_iff_ne, ne_eq,
    decide_eq_decide, decide_eq_true_eq] <;> split <;> split <;> omega

theorem add16_overflow (a b : Word) :
    (a.msb == b.msb && (add16 a b).msb != a.msb) =
      decide (a.toInt + b.toInt < -32768 ∨ 32767 < a.toInt + b.toInt) := by
  simp only [msb_eq_toNat16, toInt_eq16, add16, BitVec.toNat_ofNat]
  have ha := a.isLt
  have hb := b.isLt
  generalize a.toNat = x at *
  generalize b.toNat = y at *
  rw [Bool.eq_iff_iff]
  simp only [Bool.and_eq_true, beq_iff_eq, bne_iff_ne, ne_eq, decide_eq_decide, decide_eq_true_eq]
  split <;> split <;> omega

theorem sub16_overflow (a b : Word) :
    (a.msb != b.msb && (sub16 a b).msb != a.msb) =
      decide (a.toInt - b.toInt < -32768 ∨ 32767 < a.toInt - b.toInt) := by
  simp only [msb_eq_toNat16, toInt_eq16, sub16, BitVec.toNat_ofNat]
  have ha := a.isLt
  have hb := b.isLt
  generalize a.toNat = x at *
  generalize b.toNat = y at *
  rw [Bool.eq_iff_iff]
  simp only [Bool.and_eq_true, bne_iff_ne, ne_eq, decide_eq_decide, decide_eq_true_eq]
  split <;> split <;> omega

/-! ### The flags after each computation -/

theorem Status.sn8_eq (dk : Status) (r : Byte) :
    dk.sn8 r = { dk with s := decide (r = 0), n := decide (r.toInt < 0) } := by
  simp only [Status.sn8, beq_zero8, msb_eq_neg8]

theorem Status.sn16_eq (dk : Status) (r : Word) :
    dk.sn16 r = { dk with s := decide (r = 0), n := decide (r.toInt < 0) } := by
  simp only [Status.sn16, beq_zero16, msb_eq_neg16]

end Sys2Proof.Machine
end

