-- ==== Sys2Proof/Laws/Ops.lean ====
section
/-! SUPPORT. For each shared operation one lemma that says everything it can do, at the parameters of
Machine/Params.lean; later proofs cite it and do not unfold the operation. -/

namespace Sys2Proof.Machine

-- One thread, so that a check of the whole package stays within its memory.
set_option Elab.async false

/-! ### Memory -/

theorem State.read8_ok_iff (s : State) (addr : Word) (v : Byte) :
    s.read8 addr = .ok v ↔ s.mem.read addr.toNat = some v := by
  unfold State.read8
  cases s.mem.read addr.toNat <;> simp [memMapped]

/-- A read faults only for want of a value (rules R34, R53; log 4). -/
theorem State.read8_error (s : State) (addr : Word) (f : Fault) (h : s.read8 addr = .error f) :
    f = .uninitialisedRead addr ∧ s.mem.read addr.toNat = none := by
  unfold State.read8 at h
  cases hm : s.mem.read addr.toNat <;> simp_all [memMapped]

/-- Reads see memory only. -/
theorem State.read8_congr {s t : State} (h : t.mem = s.mem) (addr : Word) :
    t.read8 addr = s.read8 addr := by
  simp only [State.read8, h]

theorem State.write8_eq (s : State) (addr : Word) (v : Byte) :
    s.write8 addr v = .ok (s.poke addr v) := rfl

theorem State.read8_poke (s : State) (addr a : Word) (v : Byte) :
    (s.poke addr v).read8 a = if a = addr then .ok v else s.read8 a := by
  simp only [State.read8, State.poke_mem, Memory.read_write, BitVec.toNat_inj]
  by_cases h : a = addr <;> simp [h, memMapped]

@[simp] theorem State.read8_poke_same (s : State) (addr : Word) (v : Byte) :
    (s.poke addr v).read8 addr = .ok v := by
  simp [State.read8_poke]

theorem State.poke_wf (s : State) (addr : Word) (v : Byte) (h : s.mem.wf = true) :
    (s.poke addr v).mem.wf = true :=
  Memory.wf_write _ _ _ addr.isLt h

theorem State.read16_ok_iff (s : State) (addr : Word) (v : Word) :
    s.read16 addr = .ok v ↔ s.read8 addr = .ok (hi8 v) ∧ s.read8 (addr + 1) = .ok (lo8 v) := by
  unfold State.read16
  cases h : s.read8 addr with
  | error e => simp [bind, Except.bind]
  | ok x =>
    cases h' : s.read8 (addr + 1) with
    | error e => simp [bind, Except.bind]
    | ok y =>
      simp only [bind, Except.bind, pure, Except.pure, Except.ok.injEq]
      constructor
      · rintro rfl
        simp
      · rintro ⟨rfl, rfl⟩
        simp

theorem State.read16_error (s : State) (addr : Word) (f : Fault) (h : s.read16 addr = .error f) :
    f = .uninitialisedRead addr ∨ f = .uninitialisedRead (addr + 1) := by
  unfold State.read16 at h
  cases h1 : s.read8 addr with
  | error e =>
    obtain ⟨rfl, -⟩ := s.read8_error addr e h1
    simp_all [bind, Except.bind]
  | ok x =>
    cases h2 : s.read8 (addr + 1) with
    | error e =>
      obtain ⟨rfl, -⟩ := s.read8_error _ e h2
      simp_all [bind, Except.bind]
    | ok y => simp_all [bind, Except.bind, pure, Except.pure]

theorem State.write16_eq (s : State) (addr : Word) (v : Word) :
    s.write16 addr v = .ok ((s.poke addr (hi8 v)).poke (addr + 1) (lo8 v)) := rfl

/-! ### The stack -/

theorem State.push8_eq (s : State) (v : Byte) :
    s.push8 v = .ok ((s.setReg16 .yg (s.yg - 1)).poke (s.yg - 1) v) := rfl

theorem State.push16_eq (s : State) (v : Word) :
    s.push16 v = .ok (((s.setReg16 .yg (s.yg - 2)).poke (s.yg - 1) (lo8 v)).poke (s.yg - 2) (hi8 v)) := by
  have h : s.yg - 1 - 1 = s.yg - 2 := by bv_omega
  rw [← h]
  rfl

/-- A pull reads the byte at YG, or stops in the fault of that read. -/
theorem State.pull8_eq (s : State) :
    s.pull8 = (s.read8 s.yg).map fun v => (v, s.setReg16 .yg (s.yg + 1)) := by
  have h : s.pull8 = (s.read8 s.yg >>= fun v => pure (v, s.setReg16 .yg (s.yg + 1))) := rfl
  rw [h]
  cases s.read8 s.yg <;> rfl

theorem State.pull8_ok_iff (s t : State) (v : Byte) :
    s.pull8 = .ok (v, t) ↔ s.read8 s.yg = .ok v ∧ t = s.setReg16 .yg (s.yg + 1) := by
  rw [State.pull8_eq]
  cases s.read8 s.yg with
  | error e => simp [Except.map]
  | ok x => simp [Except.map, eq_comm]

/-- A pull of two bytes reads the pair at YG, or stops in the fault of that read. -/
theorem State.pull16_eq (s : State) :
    s.pull16 = (s.read16 s.yg).map fun v => (v, s.setReg16 .yg (s.yg + 2)) := by
  have h2 : (s.setReg16 .yg (s.yg + 1)).setReg16 .yg (s.yg + 1 + 1) = s.setReg16 .yg (s.yg + 2) := by
    rw [show s.yg + 1 + 1 = s.yg + 2 by bv_omega]
    rfl
  have hc : (s.setReg16 .yg (s.yg + 1)).pull8 =
      (s.read8 (s.yg + 1)).map fun l => (l, s.setReg16 .yg (s.yg + 2)) := by
    rw [State.pull8_eq, ← h2]
    rfl
  unfold State.pull16 State.read16
  rw [State.pull8_eq]
  cases s.read8 s.yg with
  | error e => rfl
  | ok h =>
    simp only [Except.map, bind, Except.bind, hc]
    cases s.read8 (s.yg + 1) <;> rfl

theorem State.pull16_ok_iff (s t : State) (v : Word) :
    s.pull16 = .ok (v, t) ↔ s.read16 s.yg = .ok v ∧ t = s.setReg16 .yg (s.yg + 2) := by
  rw [State.pull16_eq]
  cases s.read16 s.yg with
  | error e => simp [Except.map]
  | ok x => simp [Except.map, eq_comm]

/-! ### Exceptions -/

/-- The state after trap entry: three bytes pushed, K disabling, control at the entry (rule R386). -/
def State.trapped (s : State) (ret entry : Word) : State :=
  ((((((s.setReg16 .yg (s.yg - 3)).poke (s.yg - 1) (lo8 ret)).poke (s.yg - 2) (hi8 ret)).poke
    (s.yg - 3) (dkByte s.dk)).putK false).jump entry)

theorem State.trapEntry_eq (s : State) (ret entry : Word) :
    s.trapEntry ret entry = .ok (s.trapped ret entry) := by
  have h1 : s.yg - 1 - 1 = s.yg - 2 := by bv_omega
  have h2 : s.yg - 2 - 1 = s.yg - 3 := by bv_omega
  unfold State.trapped
  rw [← h2, ← h1]
  rfl

@[simp] theorem State.trapped_yg (s : State) (ret entry : Word) :
    (s.trapped ret entry).yg = s.yg - 3 := by simp [State.trapped, State.setReg16]
@[simp] theorem State.trapped_ps (s : State) (ret entry : Word) :
    (s.trapped ret entry).ps = entry := by simp [State.trapped, State.setReg16]
@[simp] theorem State.trapped_sk (s : State) (ret entry : Word) :
    (s.trapped ret entry).sk = s.sk := by simp [State.trapped, State.setReg16]
@[simp] theorem State.trapped_dk (s : State) (ret entry : Word) :
    (s.trapped ret entry).dk = { s.dk with k := false } := by simp [State.trapped, State.setReg16]
@[simp] theorem State.trapped_irqPending (s : State) (ret entry : Word) :
    (s.trapped ret entry).irqPending = s.irqPending := by simp [State.trapped, State.setReg16]
@[simp] theorem State.trapped_boundary (s : State) (ret entry : Word) :
    (s.trapped ret entry).boundary = s.boundary := by simp [State.trapped, State.setReg16]
@[simp] theorem State.reg8_trapped (s : State) (ret entry : Word) (k : Reg8) :
    (s.trapped ret entry).reg8 k = s.reg8 k := by
  cases k <;> simp [State.trapped, State.setReg16, State.reg8]

/-- What each byte reads as after trap entry (rule R386). -/
theorem State.read8_trapped (s : State) (ret entry a : Word) :
    (s.trapped ret entry).read8 a =
      if a = s.yg - 3 then .ok (dkByte s.dk)
      else if a = s.yg - 2 then .ok (hi8 ret)
      else if a = s.yg - 1 then .ok (lo8 ret)
      else s.read8 a := by
  have h : (s.trapped ret entry).read8 a =
      ((((s.setReg16 .yg (s.yg - 3)).poke (s.yg - 1) (lo8 ret)).poke (s.yg - 2) (hi8 ret)).poke
        (s.yg - 3) (dkByte s.dk)).read8 a := State.read8_congr rfl a
  rw [h, State.read8_poke, State.read8_poke, State.read8_poke]
  rfl

theorem State.acceptIrq_eq (s : State) :
    s.acceptIrq = .ok ({ s with irqPending := false }.trapped s.ps Config.irqEntry) :=
  State.trapEntry_eq _ _ _

/-- A return from a trap reads the DK byte at YG and the address above it, or stops in the fault of the
first of these reads that fails (rule R388). -/
theorem State.trapReturn_eq (s : State) :
    s.trapReturn =
      (match s.read8 s.yg with
        | .error f => .error f
        | .ok v => (s.read16 (s.yg + 1)).map fun w =>
          ((s.putStatus (dkOfByte v)).setReg16 .yg (s.yg + 3)).jump w) := by
  have hunf : s.trapReturn =
      (match s.pullReg .dk with
        | .ok s =>
          match s.pullReg .ps with
          | .ok s => .ok s
          | .error f => .error f
        | .error f => .error f) := rfl
  have hd : s.pullReg .dk =
      (s.read8 s.yg).map fun v => (s.setReg16 .yg (s.yg + 1)).putStatus (dkOfByte v) := by
    simp only [State.pullReg, State.pull8_eq]
    cases s.read8 s.yg <;> rfl
  rw [hunf, hd]
  cases s.read8 s.yg with
  | error e => rfl
  | ok v =>
    have hp : ((s.setReg16 .yg (s.yg + 1)).putStatus (dkOfByte v)).pullReg .ps =
        (s.read16 (s.yg + 1)).map fun w =>
          ((s.putStatus (dkOfByte v)).setReg16 .yg (s.yg + 1 + 2)).jump w := by
      have hr : ((s.setReg16 .yg (s.yg + 1)).putStatus (dkOfByte v)).read16 (s.yg + 1) =
        s.read16 (s.yg + 1) := rfl
      simp only [State.pullReg, State.pull16_eq]
      rw [show ((s.setReg16 .yg (s.yg + 1)).putStatus (dkOfByte v)).yg = s.yg + 1 from rfl, hr]
      cases s.read16 (s.yg + 1) <;> rfl
    simp only [Except.map] at hp ⊢
    rw [hp, show s.yg + 1 + 2 = s.yg + 3 by bv_omega]
    cases s.read16 (s.yg + 1) <;> rfl

theorem State.trapReturn_ok_iff (s t : State) :
    s.trapReturn = .ok t ↔ ∃ v w, s.read8 s.yg = .ok v ∧ s.read16 (s.yg + 1) = .ok w ∧
      t = ((s.putStatus (dkOfByte v)).setReg16 .yg (s.yg + 3)).jump w := by
  rw [State.trapReturn_eq]
  cases s.read8 s.yg with
  | error e => simp
  | ok v =>
    cases s.read16 (s.yg + 1) with
    | error e => simp [Except.map]
    | ok w => simp [Except.map, eq_comm]

/-! ### Operand forms -/

/-- The step of SK depends on SK only. -/
theorem State.stepSk_sk_congr {s t : State} (h : t.sk = s.sk) (m : Mem) :
    (t.stepSk m).sk = (s.stepSk m).sk := by
  cases m <;> simp [State.stepSk, h]

theorem State.post8_sk_congr {s t : State} (h : t.sk = s.sk) (x : Src8) :
    (t.post8 x).sk = (s.post8 x).sk := by
  cases x with
  | mem m => exact State.stepSk_sk_congr h m
  | _ => exact h

theorem State.post16_sk_congr {s t : State} (h : t.sk = s.sk) (x : Src16) :
    (t.post16 x).sk = (s.post16 x).sk := by
  cases x with
  | mem m => exact State.stepSk_sk_congr h m
  | _ => exact h

@[simp] theorem State.reg16_setReg16_self (s : State) (k : Reg16) (v : Word) :
    (s.setReg16 k v).reg16 k = v := by
  cases k <;> simp [State.setReg16, State.reg16]

/-- Reads see memory only, through the step of SK. -/
@[simp] theorem State.read8_stepSk (s : State) (m : Mem) (a : Word) :
    (s.stepSk m).read8 a = s.read8 a := State.read8_congr (by simp) a

theorem withSrc8_next_iff (x : Src8) (s t : State) (f : Byte → State → State) :
    withSrc8 x s f = .next t ↔ ∃ v, s.src8 x = .ok v ∧ t = (f v s).post8 x := by
  unfold withSrc8
  cases s.src8 x <;> simp [eq_comm]

theorem withSrc16_next_iff (x : Src16) (s t : State) (f : Word → State → State) :
    withSrc16 x s f = .next t ↔ ∃ v, s.src16 x = .ok v ∧ t = (f v s).post16 x := by
  unfold withSrc16
  cases s.src16 x <;> simp [eq_comm]

theorem withSrc8_ok {x : Src8} {s : State} {v : Byte} (h : s.src8 x = .ok v)
    (f : Byte → State → State) : withSrc8 x s f = .next ((f v s).post8 x) :=
  (withSrc8_next_iff x s _ f).2 ⟨v, h, rfl⟩

theorem withSrc16_ok {x : Src16} {s : State} {v : Word} (h : s.src16 x = .ok v)
    (f : Word → State → State) : withSrc16 x s f = .next ((f v s).post16 x) :=
  (withSrc16_next_iff x s _ f).2 ⟨v, h, rfl⟩

theorem store8_eq (m : Mem) (v : Byte) (s : State) :
    store8 m v s = .next ((s.poke (s.ea m) v).stepSk m) := rfl

theorem store16_eq (m : Mem) (v : Word) (s : State) :
    store16 m v s =
      .next (((s.poke (s.ea m) (hi8 v)).poke (s.ea m + 1) (lo8 v)).stepSk m) := rfl

theorem rmw_reg (k : Reg8) (s : State) (f : Byte → Byte) (g : Byte → State → State) :
    rmw (.reg k) s f g = .next (g (s.reg8 k) (s.setReg8 k (f (s.reg8 k)))) := rfl

theorem rmw_mem_next_iff (m : Mem) (s t : State) (f : Byte → Byte) (g : Byte → State → State) :
    rmw (.mem m) s f g = .next t ↔
      ∃ v, s.read8 (s.ea m) = .ok v ∧ t = (g v (s.poke (s.ea m) (f v))).stepSk m := by
  simp only [rmw, State.write8_eq]
  cases s.read8 (s.ea m) with
  | error e => simp
  | ok v => simp only [Host.Outcome.next.injEq, Except.ok.injEq, exists_eq_left', eq_comm]

theorem rmw_mem_ok {m : Mem} {s : State} {v : Byte} (h : s.read8 (s.ea m) = .ok v)
    (f : Byte → Byte) (g : Byte → State → State) :
    rmw (.mem m) s f g = .next ((g v (s.poke (s.ea m) (f v))).stepSk m) :=
  (rmw_mem_next_iff m s _ f g).2 ⟨v, h, rfl⟩

/-- The state after a call (rule R348). -/
def State.called (s : State) (target : Word) : State :=
  (((s.setReg16 .yg (s.yg - 2)).poke (s.yg - 1) (lo8 s.ps)).poke (s.yg - 2) (hi8 s.ps)).jump target

theorem State.call_eq (s : State) (target : Word) : s.call target = .next (s.called target) := by
  simp [State.call, State.push16_eq, State.called]

@[simp] theorem State.called_yg (s : State) (target : Word) : (s.called target).yg = s.yg - 2 := rfl
@[simp] theorem State.called_ps (s : State) (target : Word) : (s.called target).ps = target := by
  simp [State.called, State.setReg16]
@[simp] theorem State.called_sk (s : State) (target : Word) : (s.called target).sk = s.sk := rfl
@[simp] theorem State.called_dk (s : State) (target : Word) : (s.called target).dk = s.dk := by
  simp [State.called, State.setReg16]
@[simp] theorem State.called_irqPending (s : State) (target : Word) :
    (s.called target).irqPending = s.irqPending := by
  simp [State.called, State.setReg16]
@[simp] theorem State.called_boundary (s : State) (target : Word) :
    (s.called target).boundary = s.boundary := by
  simp [State.called, State.setReg16]
@[simp] theorem State.reg8_called (s : State) (target : Word) (k : Reg8) :
    (s.called target).reg8 k = s.reg8 k := by
  cases k <;> simp [State.called, State.setReg16, State.reg8]

/-- What each byte reads as after a call (rules R72, R348). -/
theorem State.read8_called (s : State) (target a : Word) :
    (s.called target).read8 a =
      if a = s.yg - 2 then .ok (hi8 s.ps) else if a = s.yg - 1 then .ok (lo8 s.ps) else s.read8 a := by
  have h : (s.called target).read8 a =
      (((s.setReg16 .yg (s.yg - 2)).poke (s.yg - 1) (lo8 s.ps)).poke (s.yg - 2) (hi8 s.ps)).read8 a :=
    State.read8_congr rfl a
  rw [h, State.read8_poke, State.read8_poke]
  rfl

theorem State.branchIf_ps (s : State) (c : Bool) (p : Byte) :
    (s.branchIf c p).ps = if c then s.relTarget p else s.ps := by
  unfold State.branchIf
  split <;> rfl

@[simp] theorem State.branchIf_mem (s : State) (c : Bool) (p : Byte) :
    (s.branchIf c p).mem = s.mem := by
  unfold State.branchIf
  split <;> rfl

@[simp] theorem State.branchIf_dk (s : State) (c : Bool) (p : Byte) :
    (s.branchIf c p).dk = s.dk := by
  unfold State.branchIf
  split <;> rfl

/-- A branch writes PS only (rule R330). -/
theorem State.branchIf_eq (s : State) (c : Bool) (p : Byte) :
    s.branchIf c p = s.jump (if c then s.relTarget p else s.ps) := by
  unfold State.branchIf
  split <;> rfl

/-- The relative target in integers (rule R330). -/
theorem State.relTarget_eq (s : State) (p : Byte) :
    s.relTarget p = BitVec.ofInt 16 (s.ps.toNat + p.toInt) := by
  simp [State.relTarget, sext16, BitVec.signExtend, BitVec.ofInt_add]

/-! ### The parameters at their defaults -/

theorem State.putArith8_eq (s : State) (dk : Status) : s.putArith8 dk = s.putStatus dk := rfl

theorem State.putArith16_eq (s : State) (dk : Status) :
    s.putArith16 dk = (s.putStatus dk).drawFlag .y := rfl

theorem State.load8_eq (s : State) (k : Reg8) (v : Byte) : s.load8 k v = s.setReg8 k v := rfl

theorem off_eq (o : Byte) : off o = zext16 o := rfl

theorem mulResult_eq (a v : Byte) : mulResult a v = zext16 a * zext16 v := rfl

/-! ### The canonical form of memory (rule R31) -/

theorem State.reset_wf : State.reset.mem.wf = true := rfl

theorem State.write8_wf {s t : State} {addr : Word} {v : Byte} (h : s.mem.wf = true)
    (ht : s.write8 addr v = .ok t) : t.mem.wf = true := by
  rw [State.write8_eq, Except.ok.injEq] at ht
  exact ht ▸ s.poke_wf addr v h

theorem State.write16_wf {s t : State} {addr v : Word} (h : s.mem.wf = true)
    (ht : s.write16 addr v = .ok t) : t.mem.wf = true := by
  rw [State.write16_eq, Except.ok.injEq] at ht
  exact ht ▸ State.poke_wf _ _ _ (s.poke_wf addr (hi8 v) h)

theorem State.push8_wf {s t : State} {v : Byte} (h : s.mem.wf = true) (ht : s.push8 v = .ok t) :
    t.mem.wf = true := by
  rw [State.push8_eq, Except.ok.injEq] at ht
  exact ht ▸ State.poke_wf _ _ _ (by simpa using h)

theorem State.push16_wf {s t : State} {v : Word} (h : s.mem.wf = true) (ht : s.push16 v = .ok t) :
    t.mem.wf = true := by
  rw [State.push16_eq, Except.ok.injEq] at ht
  exact ht ▸ State.poke_wf _ _ _ (State.poke_wf _ _ _ (by simpa using h))

theorem State.trapped_wf (s : State) (ret entry : Word) (h : s.mem.wf = true) :
    (s.trapped ret entry).mem.wf = true := by
  simp only [State.trapped, State.jump_mem, State.putK_mem]
  exact State.poke_wf _ _ _ (State.poke_wf _ _ _ (State.poke_wf _ _ _ (by simpa using h)))

theorem State.load_wf (s : State) (addr : Word) (bs : List Byte) (h : s.mem.wf = true) :
    (s.load addr bs).mem.wf = true := by
  induction bs generalizing s addr with
  | nil => exact h
  | cons b bs ih => exact ih _ _ (s.poke_wf addr b h)

end Sys2Proof.Machine
end

