-- ==== Sys2Proof/Laws/PerInstr.lean ====
section
/-! SUPPORT. The family of statements made for every instruction: the encoding of every well-formed
instruction has one to five bytes (rule R80). -/

namespace Sys2Proof.Laws.EncodingLength

-- One thread, so that a check of the whole package stays within its memory.
set_option Elab.async false

/-- A well-formed instruction is encoded in 1 to `maxLength` bytes (rule R80). -/
def Statement (i : Instr) : Prop :=
  i.wf = true → 1 ≤ (encode i).length ∧ (encode i).length ≤ maxLength

theorem memBytes_length (m : Mem) : (memBytes m).length ≤ 2 := by
  cases m <;> simp [memBytes]

theorem src8_length (mem reg : Byte) (r : BitVec 3) (x : Src8) :
    1 ≤ (encodeSrc8 mem reg r x).length ∧ (encodeSrc8 mem reg r x).length ≤ maxLength := by
  cases x with
  | mem m =>
    have := memBytes_length m
    simp only [encodeSrc8, List.length_cons, maxLength]
    omega
  | _ => simp [encodeSrc8, maxLength]

theorem src16_length (mem reg : Byte) (r : BitVec 3) (x : Src16) :
    1 ≤ (encodeSrc16 mem reg r x).length ∧ (encodeSrc16 mem reg r x).length ≤ maxLength := by
  cases x with
  | mem m =>
    have := memBytes_length m
    simp only [encodeSrc16, List.length_cons, maxLength]
    omega
  | _ => simp [encodeSrc16, maxLength]

theorem one_length (mem reg : Byte) (x : Operand8) :
    1 ≤ (encodeOne mem reg x).length ∧ (encodeOne mem reg x).length ≤ maxLength := by
  cases x with
  | mem m =>
    have := memBytes_length m
    simp only [encodeOne, List.length_cons, maxLength]
    omega
  | _ => simp [encodeOne, maxLength]

theorem bit_length (mem reg second : Byte) (n : BitVec 3) (x : Operand8) :
    1 ≤ (encodeBit mem reg second n x).length ∧
      (encodeBit mem reg second n x).length ≤ maxLength := by
  cases x with
  | mem m =>
    have := memBytes_length m
    simp only [encodeBit, List.length_cons, maxLength]
    omega
  | _ => simp [encodeBit, maxLength]

theorem shift_length (mem reg : Byte) (mid : BitVec 1) (x : Operand8) :
    1 ≤ (encodeShift mem reg mid x).length ∧ (encodeShift mem reg mid x).length ≤ maxLength := by
  cases x with
  | mem m =>
    have := memBytes_length m
    simp only [encodeShift, List.length_cons, maxLength]
    omega
  | _ => simp [encodeShift, maxLength]

theorem store_length (b1 b2 : Byte) (m : Mem) :
    1 ≤ (b1 :: b2 :: memBytes m).length ∧ (b1 :: b2 :: memBytes m).length ≤ maxLength := by
  have := memBytes_length m
  simp only [List.length_cons, maxLength]
  omega

theorem add8 (d : Acc) (x : Src8) : Statement (.add8 d x) := fun _ => src8_length _ _ _ _

theorem adc (d : Acc) (x : Src8) : Statement (.adc d x) := fun _ => src8_length _ _ _ _

theorem sub8 (d : Acc) (x : Src8) : Statement (.sub8 d x) := fun _ => src8_length _ _ _ _

theorem sue (d : Acc) (x : Src8) : Statement (.sue d x) := fun _ => src8_length _ _ _ _

theorem add16 (x : Src16) : Statement (.add16 x) := fun _ => src16_length _ _ _ _

theorem sub16 (x : Src16) : Statement (.sub16 x) := fun _ => src16_length _ _ _ _

theorem mul (x : Src8) : Statement (.mul x) := fun _ => src8_length _ _ _ _

theorem div (x : Src8) : Statement (.div x) := fun _ => src8_length _ _ _ _

theorem mov8 (ki kj : Reg8) : Statement (.mov8 ki kj) := fun _ => by simp [encode, maxLength]

theorem exc8 (ki kj : Reg8) : Statement (.exc8 ki kj) := fun _ => by simp [encode, maxLength]

theorem chn (k : Reg8) : Statement (.chn k) := fun _ => by simp [encode, maxLength]

theorem lda8 (k : Reg8) (x : Src8) : Statement (.lda8 k x) := by
  intro h
  cases x with
  | reg j => cases h
  | imm v => exact src8_length 0x00 0x00 (reg8Code k) (.imm v)
  | mem m => exact src8_length 0x00 0x00 (reg8Code k) (.mem m)

theorem str8 (k : Reg8) (m : Mem) : Statement (.str8 k m) := fun _ => store_length _ _ _

theorem strImm (v : Byte) (adr : Word) : Statement (.strImm v adr) :=
    fun _ => by simp [encode, maxLength]

theorem mov16 (kii kjj : Reg16) : Statement (.mov16 kii kjj) := fun _ => by simp [encode, maxLength]

theorem exc16 (kii kjj : Reg16) : Statement (.exc16 kii kjj) := fun _ => by simp [encode, maxLength]

theorem lda16 (k : Reg16) (x : Src16) : Statement (.lda16 k x) := by
  intro h
  cases x with
  | reg j => cases h
  | imm v => exact src16_length 0x20 0x20 (reg16Code k) (.imm v)
  | mem m => exact src16_length 0x20 0x20 (reg16Code k) (.mem m)

theorem str16 (k : Reg16) (m : Mem) : Statement (.str16 k m) := fun _ => store_length _ _ _

theorem and (d : Acc) (x : Src8) : Statement (.and d x) := fun _ => src8_length _ _ _ _

theorem or (d : Acc) (x : Src8) : Statement (.or d x) := fun _ => src8_length _ _ _ _

theorem xor (d : Acc) (x : Src8) : Statement (.xor d x) := fun _ => src8_length _ _ _ _

theorem clr (x : Operand8) : Statement (.clr x) := fun _ => one_length _ _ _

theorem inc (x : Operand8) : Statement (.inc x) := fun _ => one_length _ _ _

theorem dec (x : Operand8) : Statement (.dec x) := fun _ => one_length _ _ _

theorem com (x : Operand8) : Statement (.com x) := fun _ => one_length _ _ _

theorem neg (x : Operand8) : Statement (.neg x) := fun _ => one_length _ _ _

theorem clrBit (n : BitVec 3) (x : Operand8) : Statement (.clrBit n x) :=
    fun _ => bit_length _ _ _ _ _

theorem setBit (n : BitVec 3) (x : Operand8) : Statement (.setBit n x) :=
    fun _ => bit_length _ _ _ _ _

theorem clrFlag (f : Flag) : Statement (.clrFlag f) := fun _ => by simp [encode, maxLength]

theorem setFlag (f : Flag) : Statement (.setFlag f) := fun _ => by simp [encode, maxLength]

theorem inc16 (k : Reg16) : Statement (.inc16 k) := fun _ => by simp [encode, maxLength]

theorem dec16 (k : Reg16) : Statement (.dec16 k) := fun _ => by simp [encode, maxLength]

theorem daa (d : Acc) : Statement (.daa d) := fun _ => by simp [encode, maxLength]

theorem psh (k : Acc) : Statement (.psh k) := fun _ => by simp [encode, maxLength]

theorem pul (d : Acc) : Statement (.pul d) := fun _ => by simp [encode, maxLength]

theorem ein : Statement (.ein) := fun _ => by simp [encode, maxLength]

theorem din : Statement (.din) := fun _ => by simp [encode, maxLength]

theorem nop : Statement (.nop) := fun _ => by simp [encode, maxLength]

theorem rts : Statement (.rts) := fun _ => by simp [encode, maxLength]

theorem rti : Statement (.rti) := fun _ => by simp [encode, maxLength]

theorem int : Statement (.int) := fun _ => by simp [encode, maxLength]

theorem lsl (x : Operand8) : Statement (.lsl x) := fun _ => shift_length _ _ _ _

theorem lsr (x : Operand8) : Statement (.lsr x) := fun _ => shift_length _ _ _ _

theorem asr (x : Operand8) : Statement (.asr x) := fun _ => shift_length _ _ _ _

theorem rol (x : Operand8) : Statement (.rol x) := fun _ => shift_length _ _ _ _

theorem ror (x : Operand8) : Statement (.ror x) := fun _ => shift_length _ _ _ _

theorem cmp8 (k : Reg8) (x : Src8) : Statement (.cmp8 k x) := fun _ => src8_length _ _ _ _

theorem cmp16 (k : Reg16) (x : Src16) : Statement (.cmp16 k x) := fun _ => src16_length _ _ _ _

theorem bit (k : Reg8) (x : Src8) : Statement (.bit k x) := fun _ => src8_length _ _ _ _

theorem bra (step : Byte) : Statement (.bra step) := fun _ => by simp [encode, maxLength]

theorem jmp (adr : Word) : Statement (.jmp adr) := fun _ => by simp [encode, maxLength]

theorem jmc (f : Flag) (adr : Word) : Statement (.jmc f adr) := fun _ => by simp [encode, maxLength]

theorem beq (step : Byte) : Statement (.beq step) := fun _ => by simp [encode, maxLength]

theorem bne (step : Byte) : Statement (.bne step) := fun _ => by simp [encode, maxLength]

theorem bgt (step : Byte) : Statement (.bgt step) := fun _ => by simp [encode, maxLength]

theorem bge (step : Byte) : Statement (.bge step) := fun _ => by simp [encode, maxLength]

theorem bls (step : Byte) : Statement (.bls step) := fun _ => by simp [encode, maxLength]

theorem bhi (step : Byte) : Statement (.bhi step) := fun _ => by simp [encode, maxLength]

theorem bhe (step : Byte) : Statement (.bhe step) := fun _ => by simp [encode, maxLength]

theorem blo (step : Byte) : Statement (.blo step) := fun _ => by simp [encode, maxLength]

theorem bio (step : Byte) : Statement (.bio step) := fun _ => by simp [encode, maxLength]

theorem bno (step : Byte) : Statement (.bno step) := fun _ => by simp [encode, maxLength]

theorem bic (step : Byte) : Statement (.bic step) := fun _ => by simp [encode, maxLength]

theorem bnc (step : Byte) : Statement (.bnc step) := fun _ => by simp [encode, maxLength]

theorem bih (step : Byte) : Statement (.bih step) := fun _ => by simp [encode, maxLength]

theorem bnh (step : Byte) : Statement (.bnh step) := fun _ => by simp [encode, maxLength]

theorem bsr (step : Byte) : Statement (.bsr step) := fun _ => by simp [encode, maxLength]

theorem jsr (adr : Word) : Statement (.jsr adr) := fun _ => by simp [encode, maxLength]

theorem bscRel (f : Flag) (step : Byte) : Statement (.bscRel f step) :=
    fun _ => by simp [encode, maxLength]

theorem bscAbs (f : Flag) (adr : Word) : Statement (.bscAbs f adr) :=
    fun _ => by simp [encode, maxLength]

theorem dbnzReg (k : Reg8) (step : Byte) : Statement (.dbnzReg k step) :=
    fun _ => by simp [encode, maxLength]

theorem dbnzMem (step : Byte) (adr : Word) : Statement (.dbnzMem step adr) :=
    fun _ => by simp [encode, maxLength]

end Sys2Proof.Laws.EncodingLength
end

