-- ==== Sys2Proof/Tests/Slice0.lean ====
section
/-! SUPPORT. Tests: ill-formed terms are refused, a word written out from the spec's encoding table decodes to
its instruction for every constructor, one-step vectors of 95_test_vectors.md, and for every statement with
hypotheses a state and operands that meet them. -/

namespace Sys2Proof.Tests

-- One thread, so that a check of the whole package stays within its memory.
set_option Elab.async false

open Machine

/-! ### Well-formedness: one ill-formed term for each check (rule R111, rules R94, R95) -/

theorem test_illFormed_add8 : Instr.wf (.add8 .a (.mem (.indexedYg 0))) = false := by decide

theorem test_illFormed_adc : Instr.wf (.adc .a (.mem (.indexedYg 0))) = false := by decide

theorem test_illFormed_sub8 : Instr.wf (.sub8 .b (.mem (.indexedYg 0))) = false := by decide

theorem test_illFormed_add16 : Instr.wf (.add16 (.mem (.indexedYg 0))) = false := by decide

theorem test_illFormed_sub16 : Instr.wf (.sub16 (.mem (.indexedYg 0))) = false := by decide

theorem test_illFormed_cmp8 : Instr.wf (.cmp8 .c (.mem (.indexedYg 0))) = false := by decide

theorem test_illFormed_cmp16 : Instr.wf (.cmp16 .sk (.mem (.indexedYg 0))) = false := by decide

theorem test_illFormed_bit : Instr.wf (.bit .d (.mem (.indexedYg 0))) = false := by decide

theorem test_illFormed_div_indirectSk : Instr.wf (.div (.mem (.indirectSk 0))) = false := by decide

theorem test_illFormed_div_indexedYg : Instr.wf (.div (.mem (.indexedYg 0))) = false := by decide

theorem test_illFormed_lda8 : Instr.wf (.lda8 .a (.reg .b)) = false := by decide

theorem test_illFormed_lda16 : Instr.wf (.lda16 .ab (.reg .cd)) = false := by decide

theorem test_illFormed_jmc : Instr.wf (.jmc .y 0x3000) = false := by decide

theorem test_illFormed_bscRel : Instr.wf (.bscRel .y 0x10) = false := by decide

theorem test_illFormed_bscAbs : Instr.wf (.bscAbs .y 0x3000) = false := by decide

/-! ### Decoding: a word of every constructor, from the encoding tables of the family files -/

theorem test_decode_add8 :
    decode [0b00000011, 0b10000001, 0b00000101, 0b00000010] = .done (.add8 .b (.mem (.incremental 0x05 0x02))) 4 := by decide

theorem test_decode_adc :
    decode [0b01000100, 0b00001010] = .done (.adc .b (.reg .c)) 2 := by decide

theorem test_decode_sub8 :
    decode [0b00000101, 0b00000000, 0b00100101] = .done (.sub8 .a (.imm 0x25)) 3 := by decide

theorem test_decode_sue :
    decode [0b00000110, 0b11100001, 0b00000111] = .done (.sue .b (.mem (.indexedYg 0x07))) 3 := by decide

theorem test_decode_add16 :
    decode [0b00100011, 0b00000000, 0b00010010, 0b00110100] = .done (.add16 (.imm 0x1234)) 4 := by decide

theorem test_decode_sub16 :
    decode [0b01100101, 0b00000010] = .done (.sub16 (.reg .sk)) 2 := by decide

theorem test_decode_mul :
    decode [0b01000111, 0b00000001] = .done (.mul (.reg .b)) 2 := by decide

theorem test_decode_div :
    decode [0b00100111, 0b10100000, 0b00000001, 0b00000011] = .done (.div (.mem (.decremental 0x01 0x03))) 4 := by decide

theorem test_decode_mov8 :
    decode [0b01000000, 0b00011010] = .done (.mov8 .d .c) 2 := by decide

theorem test_decode_exc8 :
    decode [0b01000001, 0b00000011] = .done (.exc8 .a .d) 2 := by decide

theorem test_decode_chn :
    decode [0b01000100, 0b01000011] = .done (.chn .d) 2 := by decide

theorem test_decode_lda8 :
    decode [0b00000000, 0b01100001, 0b10000000] = .done (.lda8 .b (.mem (.indexed 0x80))) 3 := by decide

theorem test_decode_str8 :
    decode [0b00000001, 0b00100001, 0b00110000, 0b00000001] = .done (.str8 .b (.direct 0x3001)) 4 := by decide

theorem test_decode_strImm :
    decode [0b00000001, 0b00000100, 0b01011010, 0b00110000, 0b00000001] = .done (.strImm 0x5A 0x3001) 5 := by decide

theorem test_decode_mov16 :
    decode [0b01100000, 0b00011010] = .done (.mov16 .yg .sk) 2 := by decide

theorem test_decode_exc16 :
    decode [0b01100001, 0b00000001] = .done (.exc16 .ab .cd) 2 := by decide

theorem test_decode_lda16 :
    decode [0b00100000, 0b00000011, 0b00000010, 0b00000001] = .done (.lda16 .yg (.imm 0x0201)) 4 := by decide

theorem test_decode_str16 :
    decode [0b00100001, 0b01000001] = .done (.str16 .cd .indirect) 2 := by decide

theorem test_decode_and :
    decode [0b00010000, 0b11100000, 0b00000001] = .done (.and .a (.mem (.indexedYg 0x01))) 3 := by decide

theorem test_decode_or :
    decode [0b00010001, 0b10000001, 0b00000010, 0b00000001] = .done (.or .b (.mem (.incremental 0x02 0x01))) 4 := by decide

theorem test_decode_xor :
    decode [0b01010100, 0b00001011] = .done (.xor .b (.reg .d)) 2 := by decide

theorem test_decode_clr :
    decode [0b01001011, 0b01001011, 0b00000010] = .done (.clr (.reg .c)) 3 := by decide

theorem test_decode_inc :
    decode [0b00011000, 0b10001011, 0b00000001, 0b00000100] = .done (.inc (.mem (.incremental 0x01 0x04))) 4 := by decide

theorem test_decode_dec :
    decode [0b00011001, 0b01001011] = .done (.dec (.mem .indirect)) 2 := by decide

theorem test_decode_com :
    decode [0b01011010, 0b01011010, 0b00000000] = .done (.com (.reg .a)) 3 := by decide

theorem test_decode_neg :
    decode [0b00011011, 0b11101011, 0b00000001] = .done (.neg (.mem (.indexedYg 0x01))) 3 := by decide

theorem test_decode_clrBit :
    decode [0b01001110, 0b11001110, 0b00000111, 0b00000001] = .done (.clrBit 7 (.reg .b)) 4 := by decide

theorem test_decode_setBit :
    decode [0b00001111, 0b00101110, 0b00000011, 0b00110000, 0b00000001] = .done (.setBit 3 (.mem (.direct 0x3001))) 5 := by decide

theorem test_decode_clrFlag :
    decode [0b01011100, 0b10000100] = .done (.clrFlag .t) 2 := by decide

theorem test_decode_setFlag :
    decode [0b01011110, 0b10000001] = .done (.setFlag .y) 2 := by decide

theorem test_decode_inc16 :
    decode [0b01110000, 0b01000010] = .done (.inc16 .sk) 2 := by decide

theorem test_decode_dec16 :
    decode [0b01110001, 0b01000011] = .done (.dec16 .yg) 2 := by decide

theorem test_decode_daa :
    decode [0b01101000, 0b01000001] = .done (.daa .b) 2 := by decide

theorem test_decode_psh :
    decode [0b01101011, 0b01000000] = .done (.psh .a) 2 := by decide

theorem test_decode_pul :
    decode [0b01101110, 0b01000001] = .done (.pul .b) 2 := by decide

theorem test_decode_ein :
    decode [0b11000000] = .done (.ein) 1 := by decide

theorem test_decode_din :
    decode [0b11000001] = .done (.din) 1 := by decide

theorem test_decode_nop :
    decode [0b11000010] = .done (.nop) 1 := by decide

theorem test_decode_rts :
    decode [0b11001000] = .done (.rts) 1 := by decide

theorem test_decode_rti :
    decode [0b11001001] = .done (.rti) 1 := by decide

theorem test_decode_int :
    decode [0b11000011] = .done (.int) 1 := by decide

theorem test_decode_lsl :
    decode [0b01101111, 0b01000001] = .done (.lsl (.reg .b)) 2 := by decide

theorem test_decode_lsr :
    decode [0b01111000, 0b01000101] = .done (.lsr (.reg .b)) 2 := by decide

theorem test_decode_asr :
    decode [0b00111001, 0b00010100, 0b00110000, 0b00000001] = .done (.asr (.mem (.direct 0x3001))) 4 := by decide

theorem test_decode_rol :
    decode [0b00111010, 0b01100100, 0b00000001] = .done (.rol (.mem (.indexed 0x01))) 3 := by decide

theorem test_decode_ror :
    decode [0b00111011, 0b11000100, 0b00000001] = .done (.ror (.mem (.indirectSk 0x01))) 3 := by decide

theorem test_decode_cmp8 :
    decode [0b01011110, 0b00001010] = .done (.cmp8 .b (.reg .c)) 2 := by decide

theorem test_decode_cmp16 :
    decode [0b00111110, 0b00000010, 0b00100000, 0b00000001] = .done (.cmp16 .sk (.imm 0x2001)) 4 := by decide

theorem test_decode_bit :
    decode [0b00011111, 0b10100011, 0b00000001, 0b00000010] = .done (.bit .d (.mem (.decremental 0x01 0x02))) 4 := by decide

theorem test_decode_bra :
    decode [0b10000000, 0b11111110] = .done (.bra 0xFE) 2 := by decide

theorem test_decode_jmp :
    decode [0b00011110, 0b00101000, 0b00010010, 0b00110100] = .done (.jmp 0x1234) 4 := by decide

theorem test_decode_jmc :
    decode [0b00011111, 0b00111110, 0b00110000, 0b00000001] = .done (.jmc .t 0x3001) 4 := by decide

theorem test_decode_beq :
    decode [0b10000001, 0b00010000] = .done (.beq 0x10) 2 := by decide

theorem test_decode_bne :
    decode [0b10000010, 0b00010000] = .done (.bne 0x10) 2 := by decide

theorem test_decode_bgt :
    decode [0b10000011, 0b00010000] = .done (.bgt 0x10) 2 := by decide

theorem test_decode_bge :
    decode [0b10000100, 0b00010000] = .done (.bge 0x10) 2 := by decide

theorem test_decode_bls :
    decode [0b10000101, 0b00010000] = .done (.bls 0x10) 2 := by decide

theorem test_decode_bhi :
    decode [0b10000110, 0b00010000] = .done (.bhi 0x10) 2 := by decide

theorem test_decode_bhe :
    decode [0b10000111, 0b00010000] = .done (.bhe 0x10) 2 := by decide

theorem test_decode_blo :
    decode [0b10001000, 0b00010000] = .done (.blo 0x10) 2 := by decide

theorem test_decode_bio :
    decode [0b10001001, 0b00010000] = .done (.bio 0x10) 2 := by decide

theorem test_decode_bno :
    decode [0b10001010, 0b00010000] = .done (.bno 0x10) 2 := by decide

theorem test_decode_bic :
    decode [0b10001011, 0b00010000] = .done (.bic 0x10) 2 := by decide

theorem test_decode_bnc :
    decode [0b10001100, 0b00010000] = .done (.bnc 0x10) 2 := by decide

theorem test_decode_bih :
    decode [0b10001101, 0b00010000] = .done (.bih 0x10) 2 := by decide

theorem test_decode_bnh :
    decode [0b10001110, 0b00010000] = .done (.bnh 0x10) 2 := by decide

theorem test_decode_bsr :
    decode [0b10001111, 0b00010000] = .done (.bsr 0x10) 2 := by decide

theorem test_decode_jsr :
    decode [0b00010100, 0b00101000, 0b01000000, 0b00000001] = .done (.jsr 0x4001) 4 := by decide

theorem test_decode_bscRel :
    decode [0b10010100, 0b00010000] = .done (.bscRel .t 0x10) 2 := by decide

theorem test_decode_bscAbs :
    decode [0b00010101, 0b00111110, 0b01000000, 0b00000001] = .done (.bscAbs .t 0x4001) 4 := by decide

theorem test_decode_dbnzReg :
    decode [0b11000110, 0b01000010, 0b11111101] = .done (.dbnzReg .c 0xFD) 3 := by decide

theorem test_decode_dbnzMem :
    decode [0b11000111, 0b11111100, 0b00110000, 0b00000001] = .done (.dbnzMem 0xFC 0x3001) 4 := by decide

/-! ### One step (vectors of 95_test_vectors.md: the id stands in the name) -/

/-- The background state of the vectors of 95_test_vectors.md. -/
def bg : State :=
  { State.reset with a := 0x11, b := 0x22, c := 0x33, d := 0x44, sk := 0x2000, yg := 0x0200, ps := 0x1000 }

/-- The flags T S N Y E as the vectors list them, K = 0. -/
def fl (t s n y e : Nat) : Status :=
  { t := t == 1, s := s == 1, n := n == 1, y := y == 1, e := e == 1, k := false }

/-- The step from `s` with the bytes `bs` at PS answers a state that meets `p`. -/
def after (s : State) (bs : List Byte) (p : State → Bool) : Bool :=
  match step (s.load s.ps bs) with
  | .next t => p t
  | .fault _ => false
  | .refused _ => false

/-- The step from `s` with the bytes `bs` at PS ends in the fault `f`. -/
def faults (s : State) (bs : List Byte) (f : Fault) : Bool :=
  match step (s.load s.ps bs) with
  | .next _ => false
  | .fault g => g == f
  | .refused _ => false

/-- The byte at an address is `v`. -/
def holds (t : State) (addr : Word) (v : Byte) : Bool :=
  match t.read8 addr with
  | .ok w => w == v
  | .error _ => false

theorem test_A03_add8_overflow :
    after { bg with a := 0x7F } [0x03, 0x00, 0x01] (fun t =>
      t.a == 0x80 && t.dk == fl 1 0 1 1 0) = true := by decide

theorem test_A13_add8_decremental :
    after (bg.poke 0x2002 0x05) [0x03, 0xA0, 0x02, 0x03] (fun t =>
      t.a == 0x16 && t.sk == 0x1FFD && t.dk == fl 0 0 0 0 0) = true := by decide

theorem test_A18_adc_carryIn :
    after { bg with a := 0x00, dk := fl 0 0 0 0 1 } [0x04, 0x00, 0x7F] (fun t =>
      t.a == 0x80 && t.dk == fl 1 0 1 1 0) = true := by decide

theorem test_A21_adc_decremental :
    after (({ bg with sk := 0x2001, dk := fl 0 0 0 0 1 }).poke 0x2002 0x0E) [0x04, 0xA0, 0x01, 0x01] (fun t =>
      t.a == 0x20 && t.sk == 0x2000 && t.dk == fl 0 0 0 1 0) = true := by decide

theorem test_A26_sub8_borrow :
    after { bg with a := 0x7F } [0x05, 0x00, 0x80] (fun t =>
      t.a == 0xFF && t.dk == fl 1 0 1 0 1) = true := by decide

theorem test_A28_sub8_indirect :
    after (bg.poke 0x3344 0x02) [0x05, 0x41] (fun t =>
      t.b == 0x20 && t.dk == fl 0 0 0 0 0) = true := by decide

theorem test_A30_sue_borrowIn :
    after { bg with a := 0x00, dk := fl 0 0 0 0 1 } [0x06, 0x00, 0xFF] (fun t =>
      t.dk == fl 0 1 0 1 1 && t.ps == 0x1003) = true := by decide

theorem test_A32_sue_indexedYg :
    after (({ bg with dk := fl 0 0 0 0 1 }).poke 0x0202 0x01) [0x06, 0xE0, 0x02] (fun t =>
      t.a == 0x0F && t.dk == fl 0 0 0 1 0) = true := by decide

theorem test_A35_add16_overflow :
    after { bg with a := 0x7F, b := 0xFF } [0x23, 0x00, 0x00, 0x01] (fun t =>
      t.a == 0x80 && t.b == 0x00 && t.dk.t && !t.dk.s && t.dk.n && !t.dk.e) = true := by decide

theorem test_A39_add16_wraps :
    after ((bg.poke 0xFFFF 0x01).poke 0x0000 0x02) [0x23, 0x20, 0xFF, 0xFF] (fun t =>
      t.a == 0x12 && t.b == 0x24 && !t.dk.t && !t.dk.s && !t.dk.n && !t.dk.e) = true := by decide

theorem test_A41_sub16_borrow :
    after bg [0x25, 0x00, 0x11, 0x23] (fun t =>
      t.a == 0xFF && t.b == 0xFF && !t.dk.t && !t.dk.s && t.dk.n && t.dk.e) = true := by decide

theorem test_A43_sub16_overflow :
    after { bg with a := 0x80, b := 0x00 } [0x25, 0x00, 0x00, 0x01] (fun t =>
      t.a == 0x7F && t.b == 0xFF && t.dk.t && !t.dk.s && !t.dk.n && !t.dk.e) = true := by decide

theorem test_A46_mul_unsigned :
    after { bg with a := 0xFF } [0x07, 0x00, 0xFF] (fun t =>
      t.a == 0xFE && t.b == 0x01) = true := by decide

theorem test_A48_mul_readsBFirst :
    after { bg with a := 0x10, b := 0x10 } [0x47, 0x01] (fun t =>
      t.a == 0x01 && t.b == 0x00) = true := by decide

theorem test_A56_div_readsBFirst :
    after { bg with a := 0x12, b := 0x04 } [0x67, 0x01] (fun t =>
      t.a == 0x04 && t.b == 0x81) = true := by decide

theorem test_A58_div_byZero :
    faults (bg.poke 0x2000 0x00) [0x27, 0x80, 0x00, 0x01] .divideByZero = true := by decide

theorem test_T04_mov8_order :
    after bg [0x40, 0x1A] (fun t =>
      t.d == 0x33 && t.dk == fl 0 0 0 0 0) = true := by decide

theorem test_T06_exc8 :
    after bg [0x41, 0x03] (fun t =>
      t.a == 0x44 && t.d == 0x11 && t.dk == fl 0 0 0 0 0) = true := by decide

theorem test_T01_chn :
    after { bg with a := 0x3C } [0x44, 0x40] (fun t =>
      t.a == 0xC3 && t.dk == fl 0 0 0 0 0) = true := by decide

theorem test_T10_lda8_indirect :
    after (bg.poke 0x3344 0x7E) [0x00, 0x42] (fun t =>
      t.c == 0x7E && t.dk == fl 0 0 0 0 0) = true := by decide

theorem test_T12_lda8_incremental :
    after (bg.poke 0x2000 0x01) [0x00, 0x80, 0x00, 0xFF] (fun t =>
      t.a == 0x01 && t.sk == 0x20FF && t.dk == fl 0 0 0 0 0) = true := by decide

theorem test_T17_str8_indirect :
    after bg [0x01, 0x42] (fun t =>
      holds t 0x3344 0x33 && t.dk == fl 0 0 0 0 0) = true := by decide

theorem test_T18_str8_incremental :
    after bg [0x01, 0x80, 0x10, 0x01] (fun t =>
      t.sk == 0x2001 && holds t 0x2010 0x11 && t.dk == fl 0 0 0 0 0) = true := by decide

theorem test_T22_strImm :
    after bg [0x01, 0x04, 0x5A, 0x30, 0x00] (fun t =>
      holds t 0x3000 0x5A && t.dk == fl 0 0 0 0 0) = true := by decide

theorem test_T25_mov16_keepsFlags :
    after { bg with sk := 0x8000, dk := fl 1 0 0 1 1 } [0x60, 0x1A] (fun t =>
      t.yg == 0x8000 && t.dk == fl 1 0 1 1 1) = true := by decide

theorem test_T26_exc16 :
    after bg [0x61, 0x01] (fun t =>
      t.a == 0x33 && t.b == 0x44 && t.c == 0x11 && t.d == 0x22 && t.dk == fl 0 0 0 0 0) = true := by decide

theorem test_T31_lda16_wraps :
    after ((bg.poke 0xFFFF 0x12).poke 0x0000 0x34) [0x20, 0x20, 0xFF, 0xFF] (fun t =>
      t.a == 0x12 && t.b == 0x34 && t.dk == fl 0 0 0 0 0) = true := by decide

theorem test_T35_lda16_skByR :
    faults ((bg.poke 0x2000 0x30).poke 0x2001 0x00) [0x20, 0x82, 0x00, 0x02] (.unspecifiedCombination (.instruction (.lda16 .sk (.mem (.incremental 0x00 0x02))))) = true := by decide

theorem test_T39_str16_wraps :
    after bg [0x21, 0x22, 0xFF, 0xFF] (fun t =>
      holds t 0x0000 0x00 && holds t 0xFFFF 0x20 && t.dk == fl 0 0 0 0 0) = true := by decide

theorem test_T40_str16_skBeforeStep :
    after bg [0x21, 0x82, 0x00, 0x02] (fun t =>
      t.sk == 0x2002 && holds t 0x2000 0x20 && holds t 0x2001 0x00 && t.dk == fl 0 0 0 0 0) = true := by decide

theorem test_G01_and_keepsFlags :
    after { bg with a := 0x5A, dk := fl 1 0 0 1 1 } [0x10, 0x00, 0x0F] (fun t =>
      t.a == 0x0A && t.dk == fl 1 0 0 1 1) = true := by decide

theorem test_G07_or_incremental :
    after (bg.poke 0x2000 0x0D) [0x11, 0x81, 0x00, 0x01] (fun t =>
      t.b == 0x2F && t.sk == 0x2001 && t.dk == fl 0 0 0 0 0) = true := by decide

theorem test_G08_xor_self :
    after { bg with dk := fl 1 0 0 0 1 } [0x54, 0x00] (fun t =>
      t.a == 0x00 && t.dk == fl 1 1 0 0 1) = true := by decide

theorem test_G10_xor_direct :
    after (bg.poke 0x3000 0xA2) [0x14, 0x21, 0x30, 0x00] (fun t =>
      t.b == 0x80 && t.dk == fl 0 0 1 0 0) = true := by decide

theorem test_O01_clr_register :
    after { bg with c := 0x9D, dk := fl 1 0 1 1 1 } [0x4B, 0x4B, 0x02] (fun t =>
      t.c == 0x00 && t.dk == fl 0 1 0 0 0) = true := by decide

theorem test_O02_clr_unread :
    after bg [0x0B, 0x2B, 0x30, 0x00] (fun t =>
      holds t 0x3000 0x00 && t.dk == fl 0 1 0 0 0) = true := by decide

theorem test_O06_inc_overflow :
    after { bg with a := 0x7F, dk := fl 0 0 0 1 0 } [0x58, 0x58, 0x00] (fun t =>
      t.a == 0x80 && t.dk == fl 1 0 1 1 0) = true := by decide

theorem test_O09_inc_incremental :
    after (bg.poke 0x2001 0xFE) [0x18, 0x8B, 0x01, 0x04] (fun t =>
      t.sk == 0x2004 && holds t 0x2001 0xFF && t.dk == fl 0 0 1 0 0) = true := by decide

theorem test_O12_dec_borrow :
    after { bg with c := 0x00 } [0x59, 0x59, 0x02] (fun t =>
      t.c == 0xFF && t.dk == fl 0 0 1 0 1) = true := by decide

theorem test_O15_dec_decremental :
    after (bg.poke 0x2000 0x02) [0x19, 0xAB, 0x00, 0x01] (fun t =>
      t.sk == 0x1FFF && holds t 0x2000 0x01 && t.dk == fl 0 0 0 0 0) = true := by decide

theorem test_O16_com_keepsE :
    after { bg with a := 0x0F, dk := fl 0 0 0 0 1 } [0x5A, 0x5A, 0x00] (fun t =>
      t.a == 0xF0 && t.dk == fl 0 0 1 0 1) = true := by decide

theorem test_O18_com_memory :
    after (bg.poke 0x2002 0x55) [0x1A, 0x6B, 0x02] (fun t =>
      holds t 0x2002 0xAA && t.dk == fl 0 0 1 0 0) = true := by decide

theorem test_O20_neg_min :
    after { bg with a := 0x80 } [0x5B, 0x5B, 0x00] (fun t =>
      t.dk == fl 0 0 1 0 0 && t.ps == 0x1003) = true := by decide

theorem test_O22_neg_memory :
    after (({ bg with c := 0x30, d := 0x00 }).poke 0x3000 0x05) [0x1B, 0x4B] (fun t =>
      holds t 0x3000 0xFB && t.dk == fl 0 0 1 0 0) = true := by decide

theorem test_O25_clrBit_zero :
    after { bg with d := 0xFF } [0x4E, 0xCE, 0x00, 0x03] (fun t =>
      t.d == 0xFE && t.dk == fl 0 0 1 0 0) = true := by decide

theorem test_O27_clrBit_direct :
    after (bg.poke 0x3000 0x1F) [0x0E, 0x2E, 0x04, 0x30, 0x00] (fun t =>
      holds t 0x3000 0x0F && t.dk == fl 0 0 0 0 0) = true := by decide

theorem test_O29_setBit_sign :
    after bg [0x4F, 0xCF, 0x07, 0x01] (fun t =>
      t.b == 0xA2 && t.dk == fl 0 0 1 0 0) = true := by decide

theorem test_O30_setBit_memory :
    after (bg.poke 0x2010 0x00) [0x0F, 0x6E, 0x03, 0x10] (fun t =>
      holds t 0x2010 0x08 && t.dk == fl 0 0 0 0 0) = true := by decide

theorem test_F05_clrFlag_t :
    after { bg with dk := fl 1 1 1 1 1 } [0x5C, 0x84] (fun t =>
      t.dk == fl 0 1 1 1 1 && t.ps == 0x1002) = true := by decide

theorem test_F03_clrFlag_n :
    after { bg with dk := fl 1 1 1 1 1 } [0x5C, 0x82] (fun t =>
      t.dk == fl 1 1 0 1 1 && t.ps == 0x1002) = true := by decide

theorem test_F06_setFlag_e :
    after bg [0x5E, 0x80] (fun t =>
      t.dk == fl 0 0 0 0 1 && t.ps == 0x1002) = true := by decide

theorem test_F09_setFlag_s :
    after bg [0x5E, 0x83] (fun t =>
      t.dk == fl 0 1 0 0 0 && t.ps == 0x1002) = true := by decide

theorem test_F12_inc16_carry :
    after { bg with a := 0xFF, b := 0xFF, dk := fl 0 0 0 1 0 } [0x70, 0x40] (fun t =>
      t.a == 0x00 && t.b == 0x00 && t.dk == fl 0 1 0 1 1) = true := by decide

theorem test_F13_inc16_overflow :
    after { bg with c := 0x7F, d := 0xFF } [0x70, 0x41] (fun t =>
      t.c == 0x80 && t.d == 0x00 && t.dk == fl 1 0 1 0 0) = true := by decide

theorem test_F16_dec16_borrow :
    after { bg with sk := 0x0000 } [0x71, 0x42] (fun t =>
      t.sk == 0xFFFF && t.dk == fl 0 0 1 0 1) = true := by decide

theorem test_F17_dec16_overflow :
    after { bg with a := 0x80, b := 0x00 } [0x71, 0x40] (fun t =>
      t.a == 0x7F && t.b == 0xFF && t.dk == fl 1 0 0 0 0) = true := by decide

theorem test_F23_psh_wraps :
    after { bg with yg := 0x0000 } [0x6B, 0x41] (fun t =>
      t.yg == 0xFFFF && holds t 0xFFFF 0x22 && t.dk == fl 0 0 0 0 0) = true := by decide

theorem test_F26_pul_wraps :
    after (({ bg with yg := 0xFFFF, dk := fl 1 0 0 0 1 }).poke 0xFFFF 0x00) [0x6E, 0x40] (fun t =>
      t.a == 0x00 && t.yg == 0x0000 && t.dk == fl 1 1 0 0 1) = true := by decide

theorem test_F27_ein :
    after bg [0xC0] (fun t =>
      t.dk == { fl 0 0 0 0 0 with k := true } && t.ps == 0x1001) = true := by decide

theorem test_F30_nop_wraps :
    after { bg with ps := 0xFFFF } [0xC2] (fun t =>
      t.dk == fl 0 0 0 0 0 && t.ps == 0x0000) = true := by decide

theorem test_F31_rts :
    after ((({ bg with yg := 0x01FE }).poke 0x01FE 0x10).poke 0x01FF 0x05) [0xC8] (fun t =>
      t.yg == 0x0200 && t.dk == fl 0 0 0 0 0 && t.ps == 0x1005) = true := by decide

theorem test_H01_lsl :
    after { bg with a := 0x81 } [0x6F, 0x40] (fun t =>
      t.a == 0x02 && !t.dk.s && !t.dk.n && t.dk.e) = true := by decide

theorem test_H04_lsl_direct :
    after (bg.poke 0x3000 0x55) [0x2F, 0x14, 0x30, 0x00] (fun t =>
      holds t 0x3000 0xAA && !t.dk.s && t.dk.n && !t.dk.e) = true := by decide

theorem test_H06_lsr :
    after { bg with a := 0x80, dk := fl 0 0 0 0 1 } [0x78, 0x44] (fun t =>
      t.a == 0x40 && !t.dk.s && !t.dk.n && !t.dk.e) = true := by decide

theorem test_H07_lsr_indirect :
    after (bg.poke 0x3344 0xFF) [0x38, 0x44] (fun t =>
      holds t 0x3344 0x7F && !t.dk.s && !t.dk.n && t.dk.e) = true := by decide

theorem test_H08_asr :
    after { bg with a := 0x81 } [0x79, 0x44] (fun t =>
      t.a == 0xC0 && !t.dk.s && t.dk.n && t.dk.e) = true := by decide

theorem test_H11_asr_incremental :
    after (bg.poke 0x2000 0x02) [0x39, 0x84, 0x00, 0x01] (fun t =>
      t.sk == 0x2001 && holds t 0x2000 0x01 && !t.dk.s && !t.dk.n && !t.dk.e) = true := by decide

theorem test_H12_rol :
    after { bg with a := 0x80, dk := fl 0 0 0 0 1 } [0x7A, 0x44] (fun t =>
      t.a == 0x01 && !t.dk.s && !t.dk.n && t.dk.e) = true := by decide

theorem test_H14_rol_indexed :
    after (({ bg with dk := fl 0 0 0 0 1 }).poke 0x2001 0x3F) [0x3A, 0x64, 0x01] (fun t =>
      holds t 0x2001 0x7F && !t.dk.s && !t.dk.n && !t.dk.e) = true := by decide

theorem test_H15_ror :
    after { bg with a := 0x01, dk := fl 0 0 0 0 1 } [0x7B, 0x44] (fun t =>
      t.a == 0x80 && !t.dk.s && t.dk.n && t.dk.e) = true := by decide

theorem test_H17_ror_indirectSk :
    after (({ bg with dk := fl 0 0 0 0 1 }).poke 0x5344 0x00) [0x3B, 0xC4, 0x00] (fun t =>
      holds t 0x5344 0x80 && !t.dk.s && t.dk.n && !t.dk.e) = true := by decide

theorem test_C03_cmp8_overflow :
    after { bg with a := 0x80 } [0x1E, 0x00, 0x01] (fun t =>
      t.dk == fl 1 0 0 1 0 && t.ps == 0x1003) = true := by decide

theorem test_C08_cmp8_incremental :
    after (bg.poke 0x2000 0x11) [0x1E, 0x80, 0x00, 0x01] (fun t =>
      t.sk == 0x2001 && t.dk == fl 0 1 0 0 0) = true := by decide

theorem test_C10_cmp16_borrow :
    after bg [0x3E, 0x02, 0x20, 0x01] (fun t =>
      !t.dk.t && !t.dk.s && t.dk.n && t.dk.e) = true := by decide

theorem test_C13_cmp16_direct :
    after ((bg.poke 0x3000 0x20).poke 0x3001 0x00) [0x3E, 0x22, 0x30, 0x00] (fun t =>
      !t.dk.t && t.dk.s && !t.dk.n && !t.dk.e) = true := by decide

theorem test_C15_bit_zero :
    after { bg with a := 0x7F } [0x1F, 0x00, 0x80] (fun t =>
      t.dk.s && !t.dk.n && t.ps == 0x1003) = true := by decide

theorem test_C19_bit_decremental :
    after (bg.poke 0x2000 0x04) [0x1F, 0xA3, 0x00, 0x01] (fun t =>
      t.sk == 0x1FFF && !t.dk.s && !t.dk.n && t.ps == 0x1004) = true := by decide

theorem test_J03_bra_backward :
    after bg [0x80, 0x80] (fun t =>
      t.dk == fl 0 0 0 0 0 && t.ps == 0x0F82) = true := by decide

theorem test_J05_bra_wraps :
    after { bg with ps := 0xFFFE } [0x80, 0x05] (fun t =>
      t.dk == fl 0 0 0 0 0 && t.ps == 0x0005) = true := by decide

theorem test_J06_jmp :
    after bg [0x1E, 0x28, 0x12, 0x34] (fun t =>
      t.dk == fl 0 0 0 0 0 && t.ps == 0x1234) = true := by decide

theorem test_J41_jmc_t :
    after { bg with dk := fl 1 0 0 0 0 } [0x1F, 0x3E, 0x30, 0x00] (fun t =>
      t.dk == fl 1 0 0 0 0 && t.ps == 0x3000) = true := by decide

theorem test_J38_jmc_notTaken :
    after bg [0x1F, 0x38, 0x30, 0x00] (fun t =>
      t.dk == fl 0 0 0 0 0 && t.ps == 0x1004) = true := by decide

theorem test_J07_beq :
    after { bg with dk := fl 0 1 0 0 0 } [0x81, 0x10] (fun t =>
      t.dk == fl 0 1 0 0 0 && t.ps == 0x1012) = true := by decide

theorem test_J10_bne :
    after { bg with dk := fl 0 1 0 0 0 } [0x82, 0x10] (fun t =>
      t.dk == fl 0 1 0 0 0 && t.ps == 0x1002) = true := by decide

theorem test_J11_bgt :
    after { bg with dk := fl 1 0 1 0 0 } [0x83, 0x10] (fun t =>
      t.dk == fl 1 0 1 0 0 && t.ps == 0x1012) = true := by decide

theorem test_J35_bgt_notTaken :
    after { bg with dk := fl 0 0 1 0 0 } [0x83, 0x10] (fun t =>
      t.dk == fl 0 0 1 0 0 && t.ps == 0x1002) = true := by decide

theorem test_J14_bge :
    after { bg with dk := fl 0 0 1 0 0 } [0x84, 0x10] (fun t =>
      t.dk == fl 0 0 1 0 0 && t.ps == 0x1002) = true := by decide

theorem test_J15_bls :
    after { bg with dk := fl 1 0 0 0 0 } [0x85, 0x10] (fun t =>
      t.dk == fl 1 0 0 0 0 && t.ps == 0x1012) = true := by decide

theorem test_J36_bhi :
    after { bg with dk := fl 0 0 0 0 1 } [0x86, 0x10] (fun t =>
      t.dk == fl 0 0 0 0 1 && t.ps == 0x1002) = true := by decide

theorem test_J20_bhe :
    after { bg with dk := fl 0 0 0 0 1 } [0x87, 0x10] (fun t =>
      t.dk == fl 0 0 0 0 1 && t.ps == 0x1002) = true := by decide

theorem test_J21_blo :
    after { bg with dk := fl 0 0 0 0 1 } [0x88, 0x10] (fun t =>
      t.dk == fl 0 0 0 0 1 && t.ps == 0x1012) = true := by decide

theorem test_J23_bio :
    after { bg with dk := fl 1 0 0 0 0 } [0x89, 0x10] (fun t =>
      t.dk == fl 1 0 0 0 0 && t.ps == 0x1012) = true := by decide

theorem test_J26_bno :
    after { bg with dk := fl 1 0 0 0 0 } [0x8A, 0x10] (fun t =>
      t.dk == fl 1 0 0 0 0 && t.ps == 0x1002) = true := by decide

theorem test_J27_bic :
    after { bg with dk := fl 0 0 0 0 1 } [0x8B, 0x10] (fun t =>
      t.dk == fl 0 0 0 0 1 && t.ps == 0x1012) = true := by decide

theorem test_J30_bnc :
    after { bg with dk := fl 0 0 0 0 1 } [0x8C, 0x10] (fun t =>
      t.dk == fl 0 0 0 0 1 && t.ps == 0x1002) = true := by decide

theorem test_J31_bih :
    after { bg with dk := fl 0 0 0 1 0 } [0x8D, 0x10] (fun t =>
      t.dk == fl 0 0 0 1 0 && t.ps == 0x1012) = true := by decide

theorem test_J34_bnh :
    after { bg with dk := fl 0 0 0 1 0 } [0x8E, 0x10] (fun t =>
      t.dk == fl 0 0 0 1 0 && t.ps == 0x1002) = true := by decide

theorem test_J44_bsr_wraps :
    after { bg with yg := 0x0001 } [0x8F, 0xFC] (fun t =>
      t.yg == 0xFFFF && holds t 0x0000 0x02 && holds t 0xFFFF 0x10 && t.dk == fl 0 0 0 0 0 && t.ps == 0x0FFE) = true := by decide

theorem test_J45_jsr :
    after bg [0x14, 0x28, 0x40, 0x00] (fun t =>
      t.yg == 0x01FE && holds t 0x01FE 0x10 && holds t 0x01FF 0x04 && t.dk == fl 0 0 0 0 0 && t.ps == 0x4000) = true := by decide

theorem test_J46_bscRel :
    after { bg with dk := fl 0 0 0 0 1 } [0x90, 0x10] (fun t =>
      t.yg == 0x01FE && holds t 0x01FE 0x10 && holds t 0x01FF 0x02 && t.dk == fl 0 0 0 0 1 && t.ps == 0x1012) = true := by decide

theorem test_J50_bscRel_notTaken :
    after bg [0x90, 0x10] (fun t =>
      t.dk == fl 0 0 0 0 0 && t.ps == 0x1002) = true := by decide

theorem test_J52_bscAbs_notTaken :
    after bg [0x15, 0x3B, 0x40, 0x00] (fun t =>
      t.dk == fl 0 0 0 0 0 && t.ps == 0x1004) = true := by decide

theorem test_J53_bscAbs :
    after { bg with dk := fl 1 0 0 0 0 } [0x15, 0x3E, 0x40, 0x00] (fun t =>
      t.yg == 0x01FE && holds t 0x01FE 0x10 && holds t 0x01FF 0x04 && t.dk == fl 1 0 0 0 0 && t.ps == 0x4000) = true := by decide

theorem test_J55_dbnzReg_falls :
    after { bg with c := 0x01 } [0xC6, 0x42, 0xFD] (fun t =>
      t.c == 0x00 && t.dk == fl 0 0 0 0 0 && t.ps == 0x1003) = true := by decide

theorem test_J56_dbnzReg_fromZero :
    after { bg with a := 0x00 } [0xC6, 0x40, 0x10] (fun t =>
      t.a == 0xFF && t.dk == fl 0 0 0 0 0 && t.ps == 0x1013) = true := by decide

theorem test_J57_dbnzMem :
    after (bg.poke 0x3000 0x05) [0xC7, 0xFC, 0x30, 0x00] (fun t =>
      holds t 0x3000 0x04 && t.dk == fl 0 0 0 0 0 && t.ps == 0x1000) = true := by decide

theorem test_J58_dbnzMem_falls :
    after (bg.poke 0x3000 0x01) [0xC7, 0xFC, 0x30, 0x00] (fun t =>
      holds t 0x3000 0x00 && t.dk == fl 0 0 0 0 0 && t.ps == 0x1004) = true := by decide

theorem test_D01_firstByte :
    faults bg [0x02] (.illegalInstruction 0x1000 [0x02]) = true := by decide

theorem test_D05_methodByte :
    faults bg [0x03, 0x08, 0x25] (.illegalInstruction 0x1000 [0x03, 0x08]) = true := by decide

theorem test_A59_addByY :
    faults bg [0x03, 0xE0, 0x00] (.illegalInstruction 0x1000 [0x03, 0xE0]) = true := by decide

theorem test_A60_divByU :
    faults bg [0x27, 0xC0, 0x00] (.illegalInstruction 0x1000 [0x27, 0xC0]) = true := by decide

theorem test_F18_register16Code :
    faults bg [0x71, 0x44] (.illegalInstruction 0x1000 [0x71, 0x44]) = true := by decide

theorem test_O33_bitByte :
    faults bg [0x4E, 0xCE, 0x08, 0x00] (.illegalInstruction 0x1000 [0x4E, 0xCE, 0x08, 0x00]) = true := by decide

theorem test_O34_registerByte :
    faults bg [0x4E, 0xCE, 0x00, 0x04] (.illegalInstruction 0x1000 [0x4E, 0xCE, 0x00, 0x04]) = true := by decide

theorem test_H20_shiftByte :
    faults bg [0x78, 0x40] (.illegalInstruction 0x1000 [0x78, 0x40]) = true := by decide

theorem test_C20_cmpByY :
    faults bg [0x1E, 0xE0, 0x00] (.illegalInstruction 0x1000 [0x1E, 0xE0]) = true := by decide

theorem test_J42_jmcOnY :
    faults { bg with dk := fl 0 0 0 1 0 } [0x1F, 0x39, 0x30, 0x00] (.illegalInstruction 0x1000 [0x1F, 0x39]) = true := by decide

/-- F20: Y and E become 0, the accumulator is the open function. -/
theorem test_F20_daa : exec (.daa .b) { bg with b := 0x1A, dk := fl 0 0 0 1 1 } =
    .next { bg with b := Config.daaFn 0x1A true true, dk := fl 0 0 0 0 0 } := rfl

/-- F28: DIN, K from 1 to 0. -/
theorem test_F28_din : exec .din { bg with dk := { fl 0 0 0 0 0 with k := true } } = .next bg := rfl

/-- F33: RTI ignores bits 7 and 6 of the DK byte 0xDF; K comes back 0. -/
theorem test_F33_rti :
    exec .rti { bg with yg := 0x01FD, dk := { fl 0 0 0 0 0 with k := true }
                        mem := [(0x1FD, 0xDF), (0x1FE, 0x10), (0x1FF, 0x05)] } =
      .next { bg with yg := 0x0200, ps := 0x1005, dk := fl 1 1 1 1 1
                      mem := [(0x1FD, 0xDF), (0x1FE, 0x10), (0x1FF, 0x05)] } := rfl

/-- F34: INT at 0x1000 with DK = 0x21, the frame and the entry. -/
theorem test_F34_int :
    exec .int { bg with ps := 0x1001, dk := { fl 0 0 0 0 1 with k := true } } =
      .next { bg with ps := Config.intEntry, yg := 0x01FD, dk := fl 0 0 0 0 1
                      mem := [(0x1FD, 0x21), (0x1FE, 0x10), (0x1FF, 0x01)] } := rfl

/-- ADD A,V is the first instruction after reset, by the table's numbering. -/
theorem test_firstInstruction : decodeTableWord 24 0x030000 = some (.add8 .a (.imm 0)) ∧
    (match step (State.reset.withFetchWord 24 0x030000) with
      | .next t => t.ps == 3
      | .fault _ => false
      | .refused _ => false) = true := by decide

/-! ### The hypotheses of the statements can be met: for each statement that has any, a concrete state and
operands, and one for each clause where it has several -/

/-- The background state with some memory; NOP stands at PS. -/
def st : State :=
  { bg with mem := [(0x0200, 0x12), (0x0201, 0x34), (0x0202, 0x56), (0x1000, 0xC2), (0x2000, 0x80),
                    (0x2001, 0x01), (0x3344, 0x7F)] }

/-- A state at the top of memory: `ADD A,1` at 0xFFFE, 0xFFFF and 0x0000. -/
def top : State := { bg with ps := 0xFFFE, mem := [(0x0000, 0x01), (0xFFFE, 0x03), (0xFFFF, 0x00)] }

theorem witness_DecodeInvertsEncode :
    (Instr.div (.mem (.decremental 0xFF 0xFF))).wf = true ∧ (Instr.sue .b (.mem (.indexedYg 0))).wf = true := by
  decide

theorem witness_DecodedBytesAreTheEncoding :
    decode [0x01, 0x04, 0x5A, 0x30, 0x01, 0xFF] = .done (.strImm 0x5A 0x3001) 5 ∧
      decode [0xC9] = .done .rti 1 := by decide

theorem witness_StepRunsDecodedInstruction :
    (st.atPs [0xC2] ∧ decode [0xC2] = .done .nop 1 ∧ Instr.nop.wf = true ∧
      st.pollIrq.irqAccepted = false) ∧
    (top.atPs [0x03, 0x00, 0x01] ∧ decode [0x03, 0x00, 0x01] = .done (.add8 .a (.imm 1)) 3 ∧
      (Instr.add8 .a (.imm 1)).wf = true ∧ top.pollIrq.irqAccepted = false) := by
  refine ⟨⟨fun k h => ?_, rfl, rfl, rfl⟩, fun k h => ?_, rfl, rfl, rfl⟩
  · match k, h with
    | 0, _ => rfl
  · match k, h with
    | 0, _ => rfl
    | 1, _ => rfl
    | 2, _ => rfl

theorem witness_StepRunsEncodedInstruction :
    (Instr.add8 .a (.imm 1)).wf = true ∧ top.atPs (encode (.add8 .a (.imm 1))) ∧
      top.pollIrq.irqAccepted = false := by
  refine ⟨rfl, fun k h => ?_, rfl⟩
  match k, h with
  | 0, _ => rfl
  | 1, _ => rfl
  | 2, _ => rfl

theorem witness_FlagFormCodes :
    (Flag.e, (0b000 : BitVec 3)) ∈ [(Flag.e, 0b000), (.y, 0b001), (.n, 0b010), (.s, 0b011), (.t, 0b100)] ∧
    (Flag.t, (0b100 : BitVec 3)) ∈ [(Flag.e, 0b000), (.y, 0b001), (.n, 0b010), (.s, 0b011), (.t, 0b100)] := by
  decide

theorem witness_RelativeFirstBytes :
    ((0b1111 : BitVec 4), Instr.bsr) ∈
      [((0b0000 : BitVec 4), Instr.bra), (0b0001, .beq), (0b0010, .bne), (0b0011, .bgt),
        (0b0100, .bge), (0b0101, .bls), (0b0110, .bhi), (0b0111, .bhe), (0b1000, .blo), (0b1001, .bio),
        (0b1010, .bno), (0b1011, .bic), (0b1100, .bnc), (0b1101, .bih), (0b1110, .bnh),
        (0b1111, .bsr)] ∧
    (Flag.t, (0b100 : BitVec 3)) ∈ [(Flag.e, 0b000), (.n, 0b010), (.s, 0b011), (.t, 0b100)] ∧
    (0b10010001 : Byte) ∈ [(0b10010001 : Byte), 0b10010101, 0b10010110, 0b10010111] ∧
    ((0b10011000 : Byte) ≤ 0b10011000 ∧ (0b10111111 : Byte) ≤ 0b10111111) := by
  refine ⟨by simp, by decide, by decide, by decide⟩

theorem witness_FirstByteMap :
    (st.pollIrq.irqAccepted = false ∧ st.read8 st.ps = .ok 0xC2) ∧
    ({ bg with ps := 0x0201 }.poke 0x0201 0x02).pollIrq.irqAccepted = false ∧
    ({ bg with ps := 0x0201 }.poke 0x0201 0x02).read8 0x0201 = .ok 0x02 := ⟨⟨rfl, rfl⟩, rfl, rfl⟩

theorem witness_StepKeepsMemoryCanonical :
    (bg.load 0x1000 [0x6B, 0x40]).wf = true ∧ ∃ t, step (bg.load 0x1000 [0x6B, 0x40]) = .next t :=
  ⟨rfl, _, rfl⟩

theorem witness_StepKeepsReadable : ∃ t, step (bg.load 0x1000 [0x6B, 0x40]) = .next t := ⟨_, rfl⟩

theorem witness_BytesOutsideStoresUnchanged :
    (∃ t, exec (.psh .a) st = .next t) ∧ (0x0200 : Word) ∉ (footprint (.psh .a) st).stores ∧
    (∃ t, exec (.str16 .sk (.incremental 0 2)) st = .next t) ∧
      (0x2002 : Word) ∉ (footprint (.str16 .sk (.incremental 0 2)) st).stores :=
  ⟨⟨_, rfl⟩, by decide, ⟨_, rfl⟩, by decide⟩

theorem witness_RegistersOutsideFootprintUnchanged :
    (∃ t, exec (.exc16 .ab .sk) st = .next t) ∧ Reg8.c ∉ (footprint (.exc16 .ab .sk) st).regs ∧
    (footprint (.exc16 .ab .sk) st).yg = false ∧
    (∃ t, exec (.psh .a) st = .next t) ∧ (footprint (.psh .a) st).sk = false :=
  ⟨⟨_, rfl⟩, by decide, rfl, ⟨_, rfl⟩, rfl⟩

theorem witness_FlagsOutsideFootprintUnchanged :
    (∃ t, exec (.and .a (.imm 0)) st = .next t) ∧ Flag.e ∉ (footprint (.and .a (.imm 0)) st).flags ∧
    Instr.and .a (.imm 0) ∉ [Instr.ein, .din, .int, .rti] := ⟨⟨_, rfl⟩, by decide, by decide⟩

theorem witness_SequencingOutsideFootprintUnchanged :
    (∃ t, exec (.jmc .e 0x3000) st = .next t) ∧ (footprint (.jmc .e 0x3000) st).ps = false :=
  ⟨⟨_, rfl⟩, rfl⟩

theorem witness_UnreadableOperandFaults :
    bg.src8 (.mem .indirect) = .error (.uninitialisedRead 0x3344) ∧
    bg.src16 (.mem (.direct 0xFFFF)) = .error (.uninitialisedRead 0xFFFF) ∧
    (∀ o r : Byte, Reg16.sk = .sk → Src16.mem (.direct 0xFFFF) ≠ .mem (.incremental o r) ∧
      Src16.mem (.direct 0xFFFF) ≠ .mem (.decremental o r)) ∧
    bg.operandOf bg (.mem (.indexedYg 0xFF)) = .error (.uninitialisedRead 0x02FF) ∧
    bg.read8 0x3000 = .error (.uninitialisedRead 0x3000) ∧
    bg.read8 bg.yg = .error (.uninitialisedRead 0x0200) ∧
    ((bg.poke 0x0200 1).read8 0x0200 = .ok 1 ∧
      (bg.poke 0x0200 1).read8 (0x0200 + 1) = .error (.uninitialisedRead 0x0201)) ∧
    (((bg.poke 0x0200 1).poke 0x0201 2).read8 0x0200 = .ok 1 ∧
      ((bg.poke 0x0200 1).poke 0x0201 2).read8 (0x0200 + 1) = .ok 2 ∧
      ((bg.poke 0x0200 1).poke 0x0201 2).read8 (0x0200 + 2) = .error (.uninitialisedRead 0x0202)) :=
  ⟨rfl, rfl, by simp, rfl, rfl, rfl, ⟨rfl, rfl⟩, rfl, rfl, rfl⟩

theorem witness_AddAndAdcGiveSumAndFlags :
    st.src8 (.mem (.incremental 0 1)) = .ok 0x80 ∧
    ((Instr.adc .a (.mem (.incremental 0 1)) = .add8 .a (.mem (.incremental 0 1)) ∧ false = false) ∨
      (Instr.adc .a (.mem (.incremental 0 1)) = .adc .a (.mem (.incremental 0 1)) ∧
        false = st.flag .e)) ∧
    ((Instr.add8 .b (.mem (.incremental 0 1)) = .add8 .b (.mem (.incremental 0 1)) ∧ false = false) ∨
      (Instr.add8 .b (.mem (.incremental 0 1)) = .adc .b (.mem (.incremental 0 1)) ∧
        false = st.flag .e)) := ⟨rfl, .inr ⟨rfl, rfl⟩, .inl ⟨rfl, rfl⟩⟩

theorem witness_SubAndSueGiveDifferenceAndFlags :
    st.src8 (.reg .b) = .ok 0x22 ∧
    ((Instr.sue .b (.reg .b) = .sub8 .b (.reg .b) ∧ false = false) ∨
      (Instr.sue .b (.reg .b) = .sue .b (.reg .b) ∧ false = st.flag .e)) ∧
    ((Instr.sub8 .b (.reg .b) = .sub8 .b (.reg .b) ∧ false = false) ∨
      (Instr.sub8 .b (.reg .b) = .sue .b (.reg .b) ∧ false = st.flag .e)) :=
  ⟨rfl, .inr ⟨rfl, rfl⟩, .inl ⟨rfl, rfl⟩⟩

theorem witness_WordAddAndSubGiveResultAndFlags :
    st.src16 (.mem (.incremental 0 2)) = .ok 0x8001 ∧ st.src16 (.imm 0xFFFF) = .ok 0xFFFF := ⟨rfl, rfl⟩

theorem witness_MulGivesExactProduct :
    st.src8 (.mem (.indexedYg 2)) = .ok 0x56 ∧ st.src8 (.reg .b) = .ok 0x22 := ⟨rfl, rfl⟩

theorem witness_DivGivesQuotientOrFaults :
    st.src8 (.imm 0) = .ok 0 ∧ st.src8 (.mem .indirect) = .ok 0x7F ∧ (0x7F : Byte) ≠ 0 :=
  ⟨rfl, rfl, by decide⟩

theorem witness_ByteLoadAndStore : st.src8 (.mem (.decremental 0 1)) = .ok 0x80 := rfl

theorem witness_WordLoad :
    (st.src16 (.mem (.incremental 0 2)) = .ok 0x8001 ∧ Reg16.ab ≠ .sk) ∧
    (st.src16 (.mem (.indexed 0)) = .ok 0x8001 ∧
      ∀ o r : Byte, Src16.mem (.indexed 0) ≠ .mem (.incremental o r) ∧
        Src16.mem (.indexed 0) ≠ .mem (.decremental o r)) ∧
    (Mem.decremental 0 2 = .incremental 0 2 ∨ Mem.decremental 0 2 = .decremental 0 2) :=
  ⟨⟨rfl, by decide⟩, ⟨rfl, by simp⟩, .inr rfl⟩

theorem witness_LogicIsBitwise :
    st.src8 (.mem (.indexedYg 0)) = .ok 0x12 ∧
    ((Instr.xor .a (.mem (.indexedYg 0)) = .and .a (.mem (.indexedYg 0)) ∧
        (fun a b : Bool => a ^^ b) = (· && ·)) ∨
      (Instr.xor .a (.mem (.indexedYg 0)) = .or .a (.mem (.indexedYg 0)) ∧
        (fun a b : Bool => a ^^ b) = (· || ·)) ∨
      (Instr.xor .a (.mem (.indexedYg 0)) = .xor .a (.mem (.indexedYg 0)) ∧
        (fun a b : Bool => a ^^ b) = (· ^^ ·))) := ⟨rfl, .inr (.inr ⟨rfl, rfl⟩)⟩

theorem witness_ByteIncrementAndDecrement :
    st.operandOf st (.mem .indirect) = .ok 0x7F ∧ st.operandOf st (.reg .d) = .ok 0x44 := ⟨rfl, rfl⟩

theorem witness_ComplementNegateAndBitWrites :
    st.operandOf st (.mem (.decremental 0 1)) = .ok 0x80 ∧
    (∀ j < 8, (0x7F : Byte).getLsbD j = !(0x80 : Byte).getLsbD j) ∧ (0x80 : Byte) + 0x80 = 0 ∧
    (∀ j < 8, (0x00 : Byte).getLsbD j = if j = (7 : BitVec 3).toNat then false
      else (0x80 : Byte).getLsbD j) ∧
    (∀ j < 8, (0x81 : Byte).getLsbD j = if j = (0 : BitVec 3).toNat then true
      else (0x80 : Byte).getLsbD j) := by
  refine ⟨rfl, ?_, ?_, ?_, ?_⟩ <;> decide

theorem witness_SetFlag :
    (Flag.t, (0b100 : BitVec 3)) ∈ [(Flag.e, 0b000), (.y, 0b001), (.n, 0b010), (.s, 0b011), (.t, 0b100)] := by
  decide

theorem witness_PushAndPull : st.read8 st.yg = .ok 0x12 := rfl

theorem witness_NoOperation : st.read8 st.ps = .ok 0b11000010 ∧ st.pollIrq.irqAccepted = false := ⟨rfl, rfl⟩

theorem witness_ReturnFromSubroutine : st.read8 st.yg = .ok 0x12 ∧ st.read8 (st.yg + 1) = .ok 0x34 :=
  ⟨rfl, rfl⟩

theorem witness_ReturnFromInterrupt :
    st.read8 st.yg = .ok 0x12 ∧ st.read8 (st.yg + 1) = .ok 0x34 ∧ st.read8 (st.yg + 2) = .ok 0x56 :=
  ⟨rfl, rfl, rfl⟩

/-- The state that INT leaves, as the later state at the return. -/
theorem witness_InterruptThenReturnRestores :
    ∃ t, exec .int st = .next t ∧ ∃ u : State, u.yg = t.yg ∧
      ∀ a ∈ [t.yg, t.yg + 1, t.yg + 2], u.read8 a = t.read8 a :=
  ⟨_, rfl, _, rfl, fun _ _ => rfl⟩

theorem witness_ShiftsAndRotatesMoveOneBit :
    st.operandOf st (.mem (.incremental 1 1)) = .ok 0x01 ∧
    (false = (0x01 : Byte).getLsbD 7 ∧ (∀ j < 7, (0x02 : Byte).getLsbD (j + 1) = (0x01 : Byte).getLsbD j) ∧
      (0x02 : Byte).getLsbD 0 = false ∧ (0x02 : Byte).getLsbD 0 = st.flag .e) ∧
    (true = (0x01 : Byte).getLsbD 0 ∧ (∀ j < 7, (0x00 : Byte).getLsbD j = (0x01 : Byte).getLsbD (j + 1)) ∧
      (0x00 : Byte).getLsbD 7 = false ∧ (0x00 : Byte).getLsbD 7 = (0x01 : Byte).getLsbD 7 ∧
      (0x00 : Byte).getLsbD 7 = st.flag .e) := by
  refine ⟨rfl, ⟨rfl, ?_, rfl, rfl⟩, rfl, ?_, rfl, rfl, rfl⟩ <;> decide

theorem witness_ByteCompare : st.src8 (.mem (.incremental 0 1)) = .ok 0x80 := rfl

theorem witness_WordCompare : st.src16 (.mem (.indexed 0)) = .ok 0x8001 := rfl

theorem witness_BitTest : st.src8 (.mem .indirect) = .ok 0x7F := rfl

theorem witness_ConditionalJumpToAddress :
    (Flag.e, (0b000 : BitVec 3)) ∈ [(Flag.e, 0b000), (.n, 0b010), (.s, 0b011), (.t, 0b110)] ∧
    (Flag.t, (0b110 : BitVec 3)) ∈ [(Flag.e, 0b000), (.n, 0b010), (.s, 0b011), (.t, 0b110)] ∧
    (0b00111111 : Byte) ∈ [(0b00111001 : Byte), 0b00111100, 0b00111101, 0b00111111] := by decide

theorem witness_NamedBranchConditions :
    ∀ w ∈ [(Instr.beq 0x80, false), (Instr.bgt 0x80, true), (Instr.blo 0x80, false)],
    w ∈ [(Instr.beq 0x80, st.flag .s), (.bne 0x80, !st.flag .s),
      (.bgt 0x80, !st.flag .s && st.flag .n == st.flag .t), (.bge 0x80, st.flag .n == st.flag .t),
      (.bls 0x80, st.flag .n != st.flag .t), (.bhi 0x80, !st.flag .e && !st.flag .s),
      (.bhe 0x80, !st.flag .e), (.blo 0x80, st.flag .e)] := by decide

theorem witness_FlagBranchConditions :
    ∀ w ∈ [((0b10001001 : Byte), Instr.bio 0x80, false), (0b10001110, .bnh 0x80, true)],
    w ∈ [((0b10001001 : Byte), Instr.bio 0x80, st.flag .t), (0b10001010, .bno 0x80, !st.flag .t),
      (0b10001011, .bic 0x80, st.flag .e), (0b10001100, .bnc 0x80, !st.flag .e),
      (0b10001101, .bih 0x80, st.flag .y), (0b10001110, .bnh 0x80, !st.flag .y)] := by decide

theorem witness_CompareThenBranchDecidesOrder :
    st.src8 (.imm 0x80) = .ok 0x80 ∧ (∃ t, exec (.cmp8 .a (.imm 0x80)) st = .next t) ∧
    ∀ w ∈ [(Instr.beq 2, false), (Instr.bgt 2, true), (Instr.blo 2, true)],
    w ∈ [(Instr.beq 2, decide (st.reg8 .a = 0x80)), (.bne 2, decide (st.reg8 .a ≠ 0x80)),
      (.bgt 2, decide ((0x80 : Byte).toInt < (st.reg8 .a).toInt)),
      (.bge 2, decide ((0x80 : Byte).toInt ≤ (st.reg8 .a).toInt)),
      (.bls 2, decide ((st.reg8 .a).toInt < (0x80 : Byte).toInt)),
      (.bhi 2, decide ((0x80 : Byte).toNat < (st.reg8 .a).toNat)),
      (.bhe 2, decide ((0x80 : Byte).toNat ≤ (st.reg8 .a).toNat)),
      (.blo 2, decide ((st.reg8 .a).toNat < (0x80 : Byte).toNat))] := ⟨rfl, ⟨_, rfl⟩, by decide⟩

theorem witness_SubroutineCalls :
    (Instr.bsr 0x80 = .bsr 0x80 ∧ (0x0F80 : Word) = BitVec.ofInt 16 (st.ps.toNat + (0x80 : Byte).toInt)) ∧
    (Instr.jsr 0xFFFF = .jsr 0xFFFF ∧ (0xFFFF : Word) = 0xFFFF) := by decide

theorem witness_ConditionalCalls :
    (Instr.bscRel .e 0x7F = .bscRel .e 0x7F ∧
      (0x107F : Word) = BitVec.ofInt 16 (st.ps.toNat + (0x7F : Byte).toInt)) ∧ st.flag .e = false ∧
    (Instr.bscAbs .t 0 = .bscAbs .t 0 ∧ (0 : Word) = 0) ∧
      { st with dk := fl 1 0 0 0 0 }.flag .t = true := by decide

theorem witness_ReturnUndoesCall :
    (Instr.jsr 0x4000 ∈ [Instr.bsr 0x10, .jsr 0x4000] ∧ ∃ t, exec (.jsr 0x4000) st = .next t ∧
      ∃ u : State, u.yg = t.yg ∧ ∀ a ∈ [t.yg, t.yg + 1], u.read8 a = t.read8 a) ∧
    (Instr.bscAbs .t 0x4000 ∈ [Instr.bscRel .t 0x10, .bscAbs .t 0x4000] ∧
      { st with dk := fl 1 0 0 0 0 }.flag .t = true) :=
  ⟨⟨by decide, _, rfl, _, rfl, fun _ _ => rfl⟩, by decide⟩

theorem witness_DecrementAndBranch : st.read8 0x2001 = .ok 1 ∧ st.read8 0x2000 = .ok 0x80 := ⟨rfl, rfl⟩

theorem witness_MaskedRequestWaits :
    st.dk.k = false ∧ { st with irqPending := true }.irqPending = true ∧
      ∃ t, step { st with irqPending := true } = .next t := ⟨rfl, rfl, _, rfl⟩

theorem witness_PendingRequestIsAccepted :
    { st with irqPending := true, dk := { fl 0 0 0 0 0 with k := true } }.dk.k = true ∧
    { st with irqPending := true, dk := { fl 0 0 0 0 0 with k := true } }.irqPending = true := ⟨rfl, rfl⟩

end Sys2Proof.Tests
end

section
/-! The flag forms of CLR flag and SET flag (rule R91), the relative branches (rule R95) and the first
bytes that begin no instruction (rule R99). -/

namespace Sys2Proof

/-! ### A second byte of five fixed bits and a field -/

/-- The field names an operand: a two-byte instruction. -/
theorem decodeField_append_some {α : Type} (top : BitVec 5) {reg : BitVec 3 → Option α}
    (mk : α → Instr) {c : BitVec 3} {r : α} (rest : List Byte) (h : reg c = some r) :
    decodeField top reg mk ((top ++ c) :: rest) = .done (mk r) 2 := by
  simp only [decodeField, field73_append, field20_append, if_true, h]

/-- The field names no operand: no row has this second byte. -/
theorem decodeField_append_none {α : Type} (top : BitVec 5) {reg : BitVec 3 → Option α}
    (mk : α → Instr) {c : BitVec 3} (rest : List Byte) (h : reg c = none) :
    decodeField top reg mk ((top ++ c) :: rest) = .illegal .secondByte := by
  simp only [decodeField, field73_append, field20_append, if_true, h]

/-- The flag form has bit 7 set, so it is not the two-register form `00 ddd sss` (rule R98). -/
theorem flagForm_not_regReg (c : BitVec 3) :
    (((0b10000 : BitVec 5) ++ c : Byte).extractLsb' 6 2 : BitVec 2) ≠ 0 := by
  revert c
  decide

theorem decode_clrFlag_first (bs : List Byte) :
    decode (0b01011100 :: bs) = decodeField 0b10000 flagOfCode .clrFlag bs := rfl

theorem decode_setFlag_first (c : BitVec 3) (rest : List Byte) :
    decode (0b01011110 :: ((0b10000 : BitVec 5) ++ c) :: rest) =
      decodeField 0b10000 flagOfCode .setFlag (((0b10000 : BitVec 5) ++ c) :: rest) :=
  if_neg (flagForm_not_regReg c)

theorem decode_flagForms_some {f : Flag} {c : BitVec 3} (rest : List Byte)
    (h : flagOfCode c = some f) :
    decode (0b01011100 :: ((0b10000 : BitVec 5) ++ c) :: rest) = .done (.clrFlag f) 2 ∧
    decode (0b01011110 :: ((0b10000 : BitVec 5) ++ c) :: rest) = .done (.setFlag f) 2 := by
  rw [decode_clrFlag_first, decode_setFlag_first]
  exact ⟨decodeField_append_some _ _ _ h, decodeField_append_some _ _ _ h⟩

theorem decode_flagForms_none {c : BitVec 3} (rest : List Byte) (h : flagOfCode c = none) :
    decode (0b01011100 :: ((0b10000 : BitVec 5) ++ c) :: rest) = .illegal .secondByte ∧
    decode (0b01011110 :: ((0b10000 : BitVec 5) ++ c) :: rest) = .illegal .secondByte := by
  rw [decode_clrFlag_first, decode_setFlag_first]
  exact ⟨decodeField_append_none _ _ _ h, decodeField_append_none _ _ _ h⟩

/-- Settles O6: `flagOfCode` reads the five codes of the table and none of the three others. -/
theorem flagFormCodes : Obligations.FlagFormCodes := by
  intro f c rest hfc
  have hlegal : ∀ x ∈ [(Flag.e, (0b000 : BitVec 3)), (.y, 0b001), (.n, 0b010), (.s, 0b011),
      (.t, 0b100)], flagOfCode x.2 = some x.1 := by decide
  have hillegal : ∀ d ∈ [(0b101 : BitVec 3), 0b110, 0b111], flagOfCode d = none := by decide
  obtain ⟨hclr, hset⟩ := decode_flagForms_some rest (hlegal (f, c) hfc)
  exact ⟨hclr, hset, fun d hd => decode_flagForms_none rest (hillegal d hd)⟩

/-! ### The relative branches -/

@[simp] theorem decodeRel_cons (mk : Byte → Instr) (p : Byte) (rest : List Byte) :
    decodeRel mk (p :: rest) = .done (mk p) 2 := rfl

/-- The branches of the first bytes `1000 cccc`, by their code (rule R95). -/
def relBranches : List (BitVec 4 × (Byte → Instr)) :=
  [(0b0000, .bra), (0b0001, .beq), (0b0010, .bne), (0b0011, .bgt), (0b0100, .bge), (0b0101, .bls),
    (0b0110, .bhi), (0b0111, .bhe), (0b1000, .blo), (0b1001, .bio), (0b1010, .bno), (0b1011, .bic),
    (0b1100, .bnc), (0b1101, .bih), (0b1110, .bnh), (0b1111, .bsr)]

/-- The flags of the first bytes `10010 fff`, by their code (rule R95). -/
def relCallFlags : List (Flag × BitVec 3) := [(.e, 0b000), (.n, 0b010), (.s, 0b011), (.t, 0b100)]

theorem decode_relBranch {c : BitVec 4} {mk : Byte → Instr} (h : (c, mk) ∈ relBranches)
    (bs : List Byte) : decode (((0b1000 : BitVec 4) ++ c) :: bs) = decodeRel mk bs := by
  have hrows : ∀ x ∈ relBranches,
      decode (((0b1000 : BitVec 4) ++ x.1) :: bs) = decodeRel x.2 bs := by
    simp only [relBranches, List.forall_mem_cons]
    exact ⟨rfl, rfl, rfl, rfl, rfl, rfl, rfl, rfl, rfl, rfl, rfl, rfl, rfl, rfl, rfl, rfl,
      List.forall_mem_nil _⟩
  exact hrows (c, mk) h

theorem decode_relCall {f : Flag} {c : BitVec 3} (h : (f, c) ∈ relCallFlags) (bs : List Byte) :
    decode (((0b10010 : BitVec 5) ++ c) :: bs) = decodeRel (.bscRel f) bs := by
  have hrows : ∀ x ∈ relCallFlags,
      decode (((0b10010 : BitVec 5) ++ x.2) :: bs) = decodeRel (.bscRel x.1) bs := by
    simp only [relCallFlags, List.forall_mem_cons]
    exact ⟨rfl, rfl, rfl, rfl, List.forall_mem_nil _⟩
  exact hrows (f, c) h

/-! ### First bytes that begin no instruction -/

/-- The first bytes of the map (rule R99). -/
def firstBytes : List Nat :=
  [0x00, 0x01, 0x03, 0x04, 0x05, 0x06, 0x07, 0x0B, 0x0E, 0x0F, 0x10, 0x11, 0x14, 0x15, 0x18, 0x19,
    0x1A, 0x1B, 0x1E, 0x1F, 0x20, 0x21, 0x23, 0x25, 0x27, 0x2F, 0x38, 0x39, 0x3A, 0x3B, 0x3E, 0x40,
    0x41, 0x43, 0x44, 0x45, 0x46, 0x47, 0x4B, 0x4E, 0x4F, 0x50, 0x51, 0x54, 0x58, 0x59, 0x5A, 0x5B,
    0x5C, 0x5E, 0x5F, 0x60, 0x61, 0x63, 0x65, 0x67, 0x68, 0x6B, 0x6E, 0x6F, 0x70, 0x71, 0x78, 0x79,
    0x7A, 0x7B, 0x7E, 0x80, 0x81, 0x82, 0x83, 0x84, 0x85, 0x86, 0x87, 0x88, 0x89, 0x8A, 0x8B, 0x8C,
    0x8D, 0x8E, 0x8F, 0x90, 0x92, 0x93, 0x94, 0xC0, 0xC1, 0xC2, 0xC3, 0xC6, 0xC7, 0xC8, 0xC9]

/-- Every arm of the decoder but the last is for a first byte of the map. -/
theorem decode_not_firstByte {b : Byte} (h : b.toNat ∉ firstBytes) (bs : List Byte) :
    decode (b :: bs) = .illegal .firstByte := by
  change decodeRest b bs = _
  unfold decodeRest
  split
  case h_96 => rfl
  all_goals
    rename_i hb
    rw [hb] at h
    exact absurd (by decide) h

theorem relative_gap_not_firstByte (b : Byte)
    (h : b ∈ [(0b10010001 : Byte), 0b10010101, 0b10010110, 0b10010111] ∨
      ((0b10011000 : Byte) ≤ b ∧ b ≤ 0b10111111)) : b.toNat ∉ firstBytes := by
  revert b
  decide

/-- Settles O7: the listed codes are the rows of `relBranches` and `relCallFlags`, and the bytes in the gap
are none of `firstBytes`. -/
theorem relativeFirstBytes : Obligations.RelativeFirstBytes := by
  refine ⟨fun c mk p rest h => ?branch, fun f c p rest h => ?call, fun b rest h => ?gap⟩
  case branch => rw [decode_relBranch h, decodeRel_cons]
  case call => rw [decode_relCall h, decodeRel_cons]
  case gap => exact decode_not_firstByte (relative_gap_not_firstByte b h) rest

end Sys2Proof
end


section
/-! The transfer instructions STR V,Adr (rule R176) and the 16-bit EXC (rule R178). -/

namespace Sys2Proof

open Machine

/-! ### A word of two bytes as a number -/

theorem toNat_byte_append (h l : Byte) : (h ++ l).toNat = 256 * h.toNat + l.toNat := by
  rw [BitVec.toNat_append, ← Nat.shiftLeft_add_eq_or_of_lt l.isLt, Nat.shiftLeft_eq, mul_comm]

/-! ### A second byte of two register fields (rule R89) -/

@[simp] theorem top2_append (c d : BitVec 3) :
    (((0b00 : BitVec 2) ++ c ++ d : Byte).extractLsb' 6 2 : BitVec 2) = 0 := by
  revert c d
  decide

@[simp] theorem field53_append (c d : BitVec 3) : field53 ((0b00 : BitVec 2) ++ c ++ d) = c := by
  revert c d
  decide

/-- Both fields name an operand: a two-byte instruction. -/
theorem decodeRegReg_append_some {α β : Type} {reg1 : BitVec 3 → Option α}
    {reg2 : BitVec 3 → Option β} (mk : α → β → Instr) {c d : BitVec 3} {r1 : α} {r2 : β}
    (rest : List Byte) (h1 : reg1 c = some r1) (h2 : reg2 d = some r2) :
    decodeRegReg reg1 reg2 mk (((0b00 : BitVec 2) ++ c ++ d) :: rest) = .done (mk r1 r2) 2 := by
  have hlow : field20 ((0b00 : BitVec 2) ++ c ++ d) = d := field20_append _ d
  simp only [decodeRegReg, top2_append, field53_append, hlow, if_true, h1, h2]

/-! ### The 16-bit registers under a write and under an exchange -/

/-- The pairs AB and CD share no register with one another, nor with SK and YG (rules R21, R22). -/
theorem Machine.State.reg16_setReg16_of_ne (s : State) {j k : Reg16} (v : Word) (h : k ≠ j) :
    (s.setReg16 j v).reg16 k = s.reg16 k := by
  cases j <;> cases k <;> simp [State.setReg16, State.reg16] at h ⊢

/-! ### STR V,Adr -/

theorem decode_strImm (v h l : Byte) (rest : List Byte) :
    decode (0b00000001 :: 0b00000100 :: v :: h :: l :: rest) = .done (.strImm v (h ++ l)) 5 := rfl

theorem exec_strImm (v : Byte) (adr : Word) (s : State) :
    exec (.strImm v adr) s = .next (s.poke adr v) := by
  change finish (s.write8 adr v) = _
  rw [State.write8_eq, finish]

/-- Settles O26: the one write is at the address the two bytes spell, the more significant first. -/
theorem storeImmediate : Obligations.StoreImmediate := by
  intro v h l rest s
  refine ⟨decode_strImm v h l rest, ?_⟩
  rw [exec_strImm, State.poke, toNat_byte_append]

/-! ### EXC Kii,Kjj -/

theorem decode_exc16 (kii kjj : Reg16) (rest : List Byte) :
    decode (0b01100001 :: ((0b00 : BitVec 2) ++ reg16Code kii ++ reg16Code kjj) :: rest) =
      .done (.exc16 kii kjj) 2 :=
  decodeRegReg_append_some .exc16 rest (reg16OfCode_reg16Code kii) (reg16OfCode_reg16Code kjj)

theorem exec_exc16 (kii kjj : Reg16) (s : State) :
    exec (.exc16 kii kjj) s =
      .next ((s.setReg16 kii (s.reg16 kjj)).setReg16 kjj (s.reg16 kii)) := rfl

/-- Settles O28: the second write, to Kjj, leaves the Kii just written alone, or, where both operands are
one register, writes it with its own old value. -/
theorem wordExchange : Obligations.WordExchange := by
  intro kii kjj rest s
  refine ⟨decode_exc16 kii kjj rest, _, exec_exc16 kii kjj s, ?first, ?second, ?others, ?dk, ?mem, ?ps⟩
  case first =>
    by_cases h : kii = kjj
    · rw [h, State.reg16_setReg16_self]
    · rw [State.reg16_setReg16_of_ne _ _ h, State.reg16_setReg16_self]
  case second => rw [State.reg16_setReg16_self]
  case others =>
    intro k hi hj
    rw [State.reg16_setReg16_of_ne _ _ hj, State.reg16_setReg16_of_ne _ _ hi]
  case dk => rw [State.setReg16_dk, State.setReg16_dk]
  case mem => rw [State.setReg16_mem, State.setReg16_mem]
  case ps => rw [State.setReg16_ps, State.setReg16_ps]

end Sys2Proof
end


section
/-! The operation instructions SET flag (rule R261) and NOP (rule R269). -/

namespace Sys2Proof

open Machine

/-! ### SET flag -/

theorem exec_setFlag (f : Flag) (s : State) : exec (.setFlag f) s = .next (s.putFlag f true) := rfl

@[simp] theorem Machine.State.flag_putFlag_self (s : State) (f : Flag) (b : Bool) :
    (s.putFlag f b).flag f = b := by
  rw [State.flag_putFlag, if_pos rfl]

theorem Machine.State.flag_putFlag_of_ne (s : State) {f g : Flag} (b : Bool) (h : g ≠ f) :
    (s.putFlag f b).flag g = s.flag g := by
  rw [State.flag_putFlag, if_neg h]

/-- Settles O36: the codes are those of the flag forms (`flagFormCodes`), the effect is that of `putFlag`. -/
theorem setFlag : Obligations.SetFlag := by
  intro f c rest s hfc
  obtain ⟨-, hlegal, hillegal⟩ := flagFormCodes f c rest hfc
  refine ⟨hlegal, fun d hd => (hillegal d hd).2, _, exec_setFlag f s, ?named, ?others, ?frame, ?k⟩
  case named => exact State.flag_putFlag_self s f true
  case others => exact fun g hg => State.flag_putFlag_of_ne s true hg
  case frame => rfl
  case k => rw [State.putFlag_dk, Status.put_k]

/-! ### The step of an instruction whose first byte decides it -/

/-- One byte is fetched where that byte alone is an instruction (rule R101). -/
theorem Machine.State.fetch_of_decode_singleton {s : State} {b : Byte} {i : Instr} {n : Nat}
    (hb : s.read8 s.ps = .ok b) (hd : decode [b] = .done i n) : s.fetch = .ok (i, n) := by
  have hread : s.read8 (s.ps + BitVec.ofNat 16 ([] : List Byte).length) = .ok b := by
    rw [List.length_nil, BitVec.add_zero, hb]
  simp only [State.fetch, maxLength, State.fetchFrom, hread, List.nil_append, hd]

/-- No interrupt is accepted at the boundary: the step runs the instruction fetched, with PS past it (rules
R26, R101). -/
theorem Machine.step_of_fetch {s : State} {i : Instr} {n : Nat} (hirq : s.pollIrq.irqAccepted = false)
    (hf : s.pollIrq.fetch = .ok (i, n)) : step s = exec i (s.pollIrq.advance n) := by
  simp only [step, hirq, hf, Bool.false_eq_true, if_false]

/-- The boundary poll changes no byte of memory (rule R383). -/
theorem Machine.State.read8_pollIrq (s : State) (a : Word) : s.pollIrq.read8 a = s.read8 a :=
  State.read8_congr s.pollIrq_mem a

/-! ### NOP -/

theorem decode_nop (rest : List Byte) : decode (0b11000010 :: rest) = .done .nop 1 := rfl

theorem exec_nop (s : State) : exec .nop s = .next s := rfl

/-- Settles O41: NOP is fetched as one byte and leaves alone the state that `advance 1` made. -/
theorem noOperation : Obligations.NoOperation := by
  refine ⟨decode_nop, exec_nop, fun s hb hirq => ?step⟩
  case step =>
    have hpoll : s.pollIrq.read8 s.pollIrq.ps = .ok 0b11000010 := by
      rw [State.read8_pollIrq, State.pollIrq_ps, hb]
    calc step s
      _ = exec .nop (s.pollIrq.advance 1) :=
        step_of_fetch hirq (State.fetch_of_decode_singleton hpoll (decode_nop []))
      _ = .next (s.pollIrq.advance 1) := exec_nop _
      _ = .next { s.pollIrq with ps := s.ps + 1 } := rfl

end Sys2Proof
end


section
/-! The conditional jump JMC flag,Adr (rule R333). -/

namespace Sys2Proof

open Machine

/-! ### A second byte `00111 fff` with an address (rule R94) -/

/-- The field names a flag: the two bytes that follow are the address. -/
theorem decodeFlagJump_of_some (mk : Flag → Word → Instr) (other : List Byte → Decoded) {b : Byte}
    {f : Flag} (h l : Byte) (rest : List Byte) (hform : field73 b = 0b00111)
    (hflag : flagAdrOfCode (field20 b) = some f) :
    decodeFlagJump mk other (b :: h :: l :: rest) = .done (mk f (h ++ l)) 4 := by
  simp only [decodeFlagJump, hform, hflag, if_true, decodeAdr, word]

/-- The field names no flag: no row has this second byte, and it is not left to the other operation. -/
theorem decodeFlagJump_of_none (mk : Flag → Word → Instr) (other : List Byte → Decoded) {b : Byte}
    (rest : List Byte) (hform : field73 b = 0b00111) (hflag : flagAdrOfCode (field20 b) = none) :
    decodeFlagJump mk other (b :: rest) = .illegal .secondByte := by
  simp only [decodeFlagJump, hform, hflag, if_true]

/-! ### JMC flag,Adr -/

theorem decode_jmc_first (bs : List Byte) :
    decode (0b00011111 :: bs) =
      decodeFlagJump .jmc (decodeRegSrc8 methodsToU reg8OfCode .bit) bs := rfl

theorem decode_jmc {f : Flag} {c : BitVec 3} (h l : Byte) (rest : List Byte)
    (hc : flagAdrOfCode c = some f) :
    decode (0b00011111 :: ((0b00111 : BitVec 5) ++ c) :: h :: l :: rest) =
      .done (.jmc f (h ++ l)) 4 := by
  have hflag : flagAdrOfCode (field20 ((0b00111 : BitVec 5) ++ c)) = some f := by
    rw [field20_append, hc]
  rw [decode_jmc_first, decodeFlagJump_of_some _ _ h l rest (field73_append _ c) hflag]

/-- JMC writes PS only, with the PS it has where the flag is 0. -/
theorem exec_jmc (f : Flag) (adr : Word) (s : State) :
    exec (.jmc f adr) s = .next (s.jump (if s.flag f = true then adr else s.ps)) := by
  change Host.Outcome.next (if s.flag f = true then s.jump adr else s) = _
  split <;> rfl

/-- Settles O51: `flagAdrOfCode` reads the four codes of the table, and the four other second bytes of the
form carry the codes it does not read. -/
theorem conditionalJumpToAddress : Obligations.ConditionalJumpToAddress := by
  have hlegal : ∀ x ∈ [(Flag.e, (0b000 : BitVec 3)), (.n, 0b010), (.s, 0b011), (.t, 0b110)],
      flagAdrOfCode x.2 = some x.1 := by decide
  have hillegal : ∀ b ∈ [(0b00111001 : Byte), 0b00111100, 0b00111101, 0b00111111],
      field73 b = 0b00111 ∧ flagAdrOfCode (field20 b) = none := by decide
  refine ⟨fun f c h l rest s hfc => ⟨?decodes, ?jumps⟩, fun b rest hb => ?illegal⟩
  case decodes => exact decode_jmc h l rest (hlegal (f, c) hfc)
  case jumps => exact exec_jmc f (h ++ l) s
  case illegal =>
    obtain ⟨hform, hflag⟩ := hillegal b hb
    rw [decode_jmc_first, decodeFlagJump_of_none _ _ rest hform hflag]

end Sys2Proof
end


section
/-! Reading back an encoding: for every shape of encoding, what the decoder answers on it, and from these
the round trip of every well-formed instruction (30_encoding sections 2 and 3). -/

namespace Sys2Proof

open Machine

/-! ### The methods an operation takes (rule R111), as `Instr.wf` and as the decoder say it -/

/-- The memory method of a source operand, if it has one, is one of `ms`. -/
def Src8.memIn (ms : List Method) : Src8 → Prop
  | .mem m => memMethod m ∈ ms
  | _ => True

/-- The memory method of a source operand, if it has one, is one of `ms`. -/
def Src16.memIn (ms : List Method) : Src16 → Prop
  | .mem m => memMethod m ∈ ms
  | _ => True

theorem Mem.notIndexedYg_iff (m : Mem) : m.notIndexedYg = true ↔ memMethod m ∈ methodsToU := by
  cases m <;> simp [Mem.notIndexedYg, memMethod, methodsToU]

theorem Mem.notIndirectSkOrYg_iff (m : Mem) :
    m.notIndirectSkOrYg = true ↔ memMethod m ∈ methodsToZ := by
  cases m <;> simp [Mem.notIndirectSkOrYg, memMethod, methodsToZ]

theorem memMethod_mem_methodsAll (m : Mem) : memMethod m ∈ methodsAll := by
  cases m <;> simp [memMethod, methodsAll]

theorem Src8.memIn_methodsAll (x : Src8) : x.memIn methodsAll := by
  cases x with
  | mem m => exact memMethod_mem_methodsAll m
  | _ => trivial

theorem Src16.memIn_methodsAll (x : Src16) : x.memIn methodsAll := by
  cases x with
  | mem m => exact memMethod_mem_methodsAll m
  | _ => trivial

theorem Src8.memAll_iff_methodsToU (x : Src8) :
    x.memAll Mem.notIndexedYg = true ↔ x.memIn methodsToU := by
  cases x with
  | mem m => exact m.notIndexedYg_iff
  | _ => simp [Src8.memAll, Src8.memIn]

theorem Src16.memAll_iff_methodsToU (x : Src16) :
    x.memAll Mem.notIndexedYg = true ↔ x.memIn methodsToU := by
  cases x with
  | mem m => exact m.notIndexedYg_iff
  | _ => simp [Src16.memAll, Src16.memIn]

theorem Src8.memAll_iff_methodsToZ (x : Src8) :
    x.memAll Mem.notIndirectSkOrYg = true ↔ x.memIn methodsToZ := by
  cases x with
  | mem m => exact m.notIndirectSkOrYg_iff
  | _ => simp [Src8.memAll, Src8.memIn]

/-! ### Two-operand forms (rules R88, R89) -/

theorem memMethod_ne_v (m : Mem) : memMethod m ≠ .v := by
  cases m <;> simp [memMethod]

theorem decodeSrc8_of_ne_v {m : Method} (h : m ≠ .v) (mk : Src8 → Instr) :
    decodeSrc8 m mk = decodeMem m 2 fun x => mk (.mem x) := by
  cases m with
  | v => exact absurd rfl h
  | _ => rfl

theorem decodeSrc16_of_ne_v {m : Method} (h : m ≠ .v) (mk : Src16 → Instr) :
    decodeSrc16 m mk = decodeMem m 2 fun x => mk (.mem x) := by
  cases m with
  | v => exact absurd rfl h
  | _ => rfl

section
variable {α : Type} {b1 rg : Byte} {ms : List Method} {reg : BitVec 3 → Option α} {c : BitVec 3} {a : α}

/-- A memory or immediate form of an 8-bit source is read back. -/
theorem decode_encodeSrc8_of_notReg {mk : α → Src8 → Instr} (hv : Method.v ∈ ms) (ha : reg c = some a)
    (hb1 : ∀ m bs, decode (b1 :: methodRegByte m c :: bs) =
      decodeRegSrc8 ms reg mk (methodRegByte m c :: bs))
    {x : Src8} (hx : x.memIn ms) (hreg : x.notReg = true) (rest : List Byte) :
    decode (encodeSrc8 b1 rg c x ++ rest) = .done (mk a x) (encodeSrc8 b1 rg c x).length := by
  cases x with
  | imm v =>
    simp only [encodeSrc8, List.cons_append, hb1, decodeRegSrc8, methodByte_imm ms reg c hv, ha,
      Option.map_some, decodeSrc8, List.length_cons, List.length_nil]
  | reg k => simp [Src8.notReg] at hreg
  | mem m =>
    simp only [encodeSrc8, List.cons_append, hb1, decodeRegSrc8, methodByte_memCode ms reg m c hx, ha,
      Option.map_some, decodeSrc8_of_ne_v (memMethod_ne_v m), decodeMem_memBytes, List.length_cons,
      Nat.add_comm 2]

/-- Every form of an 8-bit source is read back. -/
theorem decode_encodeSrc8 {mk : α → Src8 → Instr} (hv : Method.v ∈ ms) (ha : reg c = some a)
    (hb1 : ∀ m bs, decode (b1 :: methodRegByte m c :: bs) =
      decodeRegSrc8 ms reg mk (methodRegByte m c :: bs))
    (hrg : ∀ k bs, decode (rg :: regRegByte c k :: bs) =
      decodeRegReg reg reg8OfCode (fun a k => mk a (.reg k)) (regRegByte c k :: bs))
    {x : Src8} (hx : x.memIn ms) (rest : List Byte) :
    decode (encodeSrc8 b1 rg c x ++ rest) = .done (mk a x) (encodeSrc8 b1 rg c x).length := by
  cases x with
  | reg k =>
    rw [encodeSrc8, List.cons_append, List.cons_append, hrg]
    exact decodeRegReg_append_some _ _ ha (reg8OfCode_reg8Code k)
  | imm v => exact decode_encodeSrc8_of_notReg hv ha hb1 hx rfl rest
  | mem m => exact decode_encodeSrc8_of_notReg hv ha hb1 hx rfl rest

/-- A memory or immediate form of a 16-bit source is read back. -/
theorem decode_encodeSrc16_of_notReg {mk : α → Src16 → Instr} (hv : Method.v ∈ ms)
    (ha : reg c = some a)
    (hb1 : ∀ m bs, decode (b1 :: methodRegByte m c :: bs) =
      decodeRegSrc16 ms reg mk (methodRegByte m c :: bs))
    {x : Src16} (hx : x.memIn ms) (hreg : x.notReg = true) (rest : List Byte) :
    decode (encodeSrc16 b1 rg c x ++ rest) = .done (mk a x) (encodeSrc16 b1 rg c x).length := by
  cases x with
  | imm v =>
    simp only [encodeSrc16, List.cons_append, hb1, decodeRegSrc16, methodByte_imm ms reg c hv, ha,
      Option.map_some, decodeSrc16, word_hi8_lo8, List.length_cons, List.length_nil]
  | reg k => simp [Src16.notReg] at hreg
  | mem m =>
    simp only [encodeSrc16, List.cons_append, hb1, decodeRegSrc16, methodByte_memCode ms reg m c hx, ha,
      Option.map_some, decodeSrc16_of_ne_v (memMethod_ne_v m), decodeMem_memBytes, List.length_cons,
      Nat.add_comm 2]

/-- Every form of a 16-bit source is read back. -/
theorem decode_encodeSrc16 {mk : α → Src16 → Instr} (hv : Method.v ∈ ms) (ha : reg c = some a)
    (hb1 : ∀ m bs, decode (b1 :: methodRegByte m c :: bs) =
      decodeRegSrc16 ms reg mk (methodRegByte m c :: bs))
    (hrg : ∀ k bs, decode (rg :: regRegByte c k :: bs) =
      decodeRegReg reg reg16OfCode (fun a k => mk a (.reg k)) (regRegByte c k :: bs))
    {x : Src16} (hx : x.memIn ms) (rest : List Byte) :
    decode (encodeSrc16 b1 rg c x ++ rest) = .done (mk a x) (encodeSrc16 b1 rg c x).length := by
  cases x with
  | reg k =>
    rw [encodeSrc16, List.cons_append, List.cons_append, hrg]
    exact decodeRegReg_append_some _ _ ha (reg16OfCode_reg16Code k)
  | imm v => exact decode_encodeSrc16_of_notReg hv ha hb1 hx rfl rest
  | mem m => exact decode_encodeSrc16_of_notReg hv ha hb1 hx rfl rest

/-- A store is read back. -/
theorem decode_store {mk : α → Mem → Instr} (ha : reg c = some a)
    (hb1 : ∀ m bs, decode (b1 :: methodRegByte (memCode m) c :: bs) =
      decodeStore reg mk (methodRegByte (memCode m) c :: bs)) (m : Mem) (rest : List Byte) :
    decode (b1 :: methodRegByte (memCode m) c :: memBytes m ++ rest) =
      .done (mk a m) (b1 :: methodRegByte (memCode m) c :: memBytes m).length := by
  simp only [List.cons_append, hb1, decodeStore, methodByte_memCode _ reg m c (memMethod_mem m), ha,
    Option.map_some, decodeMem_memBytes, List.length_cons, Nat.add_comm 2]

end

/-! ### One-operand forms (rules R92, R93) -/

/-- CLR, INC, DEC, COM, NEG are read back. -/
theorem decode_encodeOne {b1 rg : Byte} {mk : Operand8 → Instr}
    (hb1 : ∀ bs, decode (b1 :: bs) = decodeOneMem mk bs)
    (hrg : ∀ bs, decode (rg :: bs) = decodeOneReg rg mk bs) (x : Operand8) (rest : List Byte) :
    decode (encodeOne b1 rg x ++ rest) = .done (mk x) (encodeOne b1 rg x).length := by
  cases x with
  | reg k =>
    simp only [encodeOne, List.cons_append, hrg, decodeOneReg, if_true, decodeRegByte_fieldByte,
      List.length_cons, List.length_nil]
  | mem m =>
    simp only [encodeOne, List.cons_append, hb1, decodeOneMem, methodLow_memCode, decodeMem_memBytes,
      List.length_cons, Nat.add_comm 2]

/-- CLR N,x and SET N,x are read back. -/
theorem decode_encodeBit {b1 rg second : Byte} {mk : BitVec 3 → Operand8 → Instr}
    (hb1 : ∀ bs, decode (b1 :: bs) = decodeBitMem mk bs)
    (hrg : ∀ bs, decode (rg :: bs) = decodeBitReg second mk bs) (n : BitVec 3) (x : Operand8)
    (rest : List Byte) :
    decode (encodeBit b1 rg second n x ++ rest) =
      .done (mk n x) (encodeBit b1 rg second n x).length := by
  cases x with
  | reg k =>
    simp only [encodeBit, List.cons_append, hrg, decodeBitReg, if_true, bitNumber_fieldByte,
      decodeRegByte_fieldByte, List.length_cons, List.length_nil]
  | mem m =>
    simp only [encodeBit, List.cons_append, hb1, decodeBitMem, methodLow_memCode, bitNumber_fieldByte,
      checkBit, decodeMem_memBytes, List.length_cons, Nat.add_comm 3]

theorem shiftMethod_shiftMemByte (m : Mem) : shiftMethod (shiftMemByte m) = some (memMethod m) := by
  cases m <;> simp only [shiftMemByte, memCode, memMethod] <;> decide

/-- The register form's second byte of a shift or rotate (rule R93). -/
theorem decodeShiftReg_byte (mid : BitVec 1) (mk : Operand8 → Instr) (k : Reg8) (rest : List Byte) :
    decodeShiftReg mid mk
        (((0b01000 : BitVec 5) ++ mid ++ (reg8Code k).extractLsb' 0 2 : Byte) :: rest) =
      .done (mk (.reg k)) 2 := by
  have hfields : field73 ((0b01000 : BitVec 5) ++ mid ++ (reg8Code k).extractLsb' 0 2) = 0b01000 ∧
      (((0b01000 : BitVec 5) ++ mid ++ (reg8Code k).extractLsb' 0 2 : Byte).extractLsb' 2 1 : BitVec 1) =
        mid := by
    revert mid
    cases k <;> decide
  have hcode : reg8OfCode ((((0b01000 : BitVec 5) ++ mid ++ (reg8Code k).extractLsb' 0 2 :
      Byte).extractLsb' 0 2 : BitVec 2).setWidth 3) = some k := by
    revert mid
    cases k <;> decide
  simp only [decodeShiftReg, hfields, hcode, and_self, if_true]

/-- Shifts and rotates are read back. -/
theorem decode_encodeShift {b1 rg : Byte} {mid : BitVec 1} {mk : Operand8 → Instr}
    (hb1 : ∀ bs, decode (b1 :: bs) = decodeShiftMem mk bs)
    (hrg : ∀ bs, decode (rg :: bs) = decodeShiftReg mid mk bs) (x : Operand8) (rest : List Byte) :
    decode (encodeShift b1 rg mid x ++ rest) = .done (mk x) (encodeShift b1 rg mid x).length := by
  cases x with
  | reg k =>
    rw [encodeShift, List.cons_append, List.cons_append, hrg]
    exact decodeShiftReg_byte mid mk k _
  | mem m =>
    simp only [encodeShift, List.cons_append, hb1, decodeShiftMem, shiftMethod_shiftMemByte,
      decodeMem_memBytes, List.length_cons, Nat.add_comm 2]

/-! ### First bytes that two operations share (rules R97, R98) -/

theorem decodeJump_methodRegByte (mk : Word → Instr) (other : List Byte → Decoded) (m c : BitVec 3)
    (bs : List Byte) :
    decodeJump mk other (methodRegByte m c :: bs) = other (methodRegByte m c :: bs) := by
  have h : methodRegByte m c ≠ 0b00101000 := by
    revert m c
    decide
  exact if_neg h

theorem decodeFlagJump_methodRegByte (mk : Flag → Word → Instr) (other : List Byte → Decoded)
    (m c : BitVec 3) (bs : List Byte) :
    decodeFlagJump mk other (methodRegByte m c :: bs) = other (methodRegByte m c :: bs) := by
  have h : field73 (methodRegByte m c) ≠ 0b00111 := by
    revert m c
    decide
  exact if_neg h

/-- The immediate form `00000100` of STR is not a store by a memory method (rule R97). -/
theorem decodeStr8_memCode (m : Mem) (c : BitVec 3) (bs : List Byte) :
    decodeStr8 (methodRegByte (memCode m) c :: bs) =
      decodeStore reg8OfCode .str8 (methodRegByte (memCode m) c :: bs) := by
  have h : methodRegByte (memCode m) c ≠ 0b00000100 := by
    revert c
    cases m <;> simp only [memCode] <;> decide
  exact if_neg h

/-- The two-register form `00 ddd sss` is not a form with bit 7 or bit 6 set (rule R98). -/
theorem decodeAdcRegOrChn_regReg (c d : BitVec 3) (bs : List Byte) :
    decodeAdcRegOrChn (regRegByte c d :: bs) =
      decodeRegReg accOfCode reg8OfCode (fun d k => .adc d (.reg k)) (regRegByte c d :: bs) :=
  if_pos (top2_append c d)

theorem decodeCmpRegOrSetFlag_regReg (c d : BitVec 3) (bs : List Byte) :
    decodeCmpRegOrSetFlag (regRegByte c d :: bs) =
      decodeRegReg reg8OfCode reg8OfCode (fun k x => .cmp8 k (.reg x)) (regRegByte c d :: bs) :=
  if_pos (top2_append c d)

theorem decode_chn (k : Reg8) (rest : List Byte) :
    decode (0x44 :: fieldByte 0b01000 (reg8Code k) :: rest) = .done (.chn k) 2 := by
  have h : ((fieldByte 0b01000 (reg8Code k)).extractLsb' 6 2 : BitVec 2) ≠ 0 := by
    cases k <;> decide
  exact (if_neg h).trans (decodeField_append_some _ _ _ (reg8OfCode_reg8Code k))

/-! ### Addresses and flags in the encoding (rules R94, R95) -/

theorem decodeAdr_hi_lo (mk : Word → Instr) (adr : Word) (rest : List Byte) :
    decodeAdr mk (hi8 adr :: lo8 adr :: rest) = .done (mk adr) 4 := by
  simp only [decodeAdr, word_hi8_lo8]

theorem decodeFlagJump_hi_lo (mk : Flag → Word → Instr) (other : List Byte → Decoded) {f : Flag}
    (hf : f.notY = true) (adr : Word) (rest : List Byte) :
    decodeFlagJump mk other (fieldByte 0b00111 (flagAdrCode f) :: hi8 adr :: lo8 adr :: rest) =
      .done (mk f adr) 4 := by
  have hcode : flagAdrOfCode (flagAdrCode f) = some f := by
    cases f <;> first | rfl | simp [Flag.notY] at hf
  have hfield : flagAdrOfCode (field20 (fieldByte 0b00111 (flagAdrCode f))) = some f :=
    (congrArg _ (field20_append _ _)).trans hcode
  exact (decodeFlagJump_of_some mk other _ _ rest (field73_append _ _) hfield).trans
    (congrArg (fun w => Decoded.done (mk f w) 4) (word_hi8_lo8 adr))

theorem notY_relCallFlags {f : Flag} (hf : f.notY = true) : (f, flagCode f) ∈ relCallFlags := by
  cases f <;> simp [Flag.notY, relCallFlags, flagCode] at hf ⊢

theorem decode_dbnzReg_first (bs : List Byte) : decode (0xC6 :: bs) = decodeDbnzReg bs := rfl

theorem decode_dbnzReg (k : Reg8) (p : Byte) (rest : List Byte) :
    decode (0xC6 :: fieldByte 0b01000 (reg8Code k) :: p :: rest) = .done (.dbnzReg k p) 3 := by
  simp only [decode_dbnzReg_first, decodeDbnzReg, fieldByte, field73_append, field20_append, if_true,
    reg8OfCode_reg8Code]

/-! ### Every instruction -/

theorem encode_lda8 {k : Reg8} {x : Src8} (hx : x.notReg = true) (rg : Byte) :
    encode (.lda8 k x) = encodeSrc8 0x00 rg (reg8Code k) x := by
  cases x with
  | reg k => simp [Src8.notReg] at hx
  | _ => rfl

theorem encode_lda16 {k : Reg16} {x : Src16} (hx : x.notReg = true) (rg : Byte) :
    encode (.lda16 k x) = encodeSrc16 0x20 rg (reg16Code k) x := by
  cases x with
  | reg k => simp [Src16.notReg] at hx
  | _ => rfl

theorem v_mem_methodsToU : Method.v ∈ methodsToU := by decide
theorem v_mem_methodsAll : Method.v ∈ methodsAll := by decide
theorem v_mem_methodsToZ : Method.v ∈ methodsToZ := by decide

/-- Settles O1: each operation is a case of the lemma about its shape of encoding. -/
theorem decodeInvertsEncode : Obligations.DecodeInvertsEncode := by
  intro i rest hwf
  cases i with
  | add8 d x =>
    exact decode_encodeSrc8 (mk := .add8) v_mem_methodsToU (accOfCode_accCode d) (fun _ _ => rfl)
      (fun _ _ => rfl) (x.memAll_iff_methodsToU.1 hwf) rest
  | adc d x =>
    exact decode_encodeSrc8 (b1 := 0x04) (rg := 0x44) (mk := .adc) v_mem_methodsToU
      (accOfCode_accCode d) (fun _ _ => rfl) (fun k => decodeAdcRegOrChn_regReg _ k)
      (x.memAll_iff_methodsToU.1 hwf) rest
  | sub8 d x =>
    exact decode_encodeSrc8 (mk := .sub8) v_mem_methodsToU (accOfCode_accCode d) (fun _ _ => rfl)
      (fun _ _ => rfl) (x.memAll_iff_methodsToU.1 hwf) rest
  | sue d x =>
    exact decode_encodeSrc8 (mk := .sue) v_mem_methodsAll (accOfCode_accCode d) (fun _ _ => rfl)
      (fun _ _ => rfl) x.memIn_methodsAll rest
  | add16 x =>
    exact decode_encodeSrc16 (mk := fun _ => .add16) v_mem_methodsToU (reg := fixedOfCode) rfl
      (fun _ _ => rfl) (fun _ _ => rfl) (x.memAll_iff_methodsToU.1 hwf) rest
  | sub16 x =>
    exact decode_encodeSrc16 (mk := fun _ => .sub16) v_mem_methodsToU (reg := fixedOfCode) rfl
      (fun _ _ => rfl) (fun _ _ => rfl) (x.memAll_iff_methodsToU.1 hwf) rest
  | mul x =>
    exact decode_encodeSrc8 (mk := fun _ => .mul) v_mem_methodsAll (reg := fixedOfCode) rfl
      (fun _ _ => rfl) (fun _ _ => rfl) x.memIn_methodsAll rest
  | div x =>
    exact decode_encodeSrc8 (mk := fun _ => .div) v_mem_methodsToZ (reg := fixedOfCode) rfl
      (fun _ _ => rfl) (fun _ _ => rfl) (x.memAll_iff_methodsToZ.1 hwf) rest
  | mov8 ki kj =>
    exact decodeRegReg_append_some .mov8 rest (reg8OfCode_reg8Code ki) (reg8OfCode_reg8Code kj)
  | exc8 ki kj =>
    exact decodeRegReg_append_some .exc8 rest (reg8OfCode_reg8Code ki) (reg8OfCode_reg8Code kj)
  | chn k => exact decode_chn k rest
  | lda8 k x =>
    rw [encode_lda8 hwf 0]
    exact decode_encodeSrc8_of_notReg (mk := .lda8) v_mem_methodsAll (reg8OfCode_reg8Code k)
      (fun _ _ => rfl) x.memIn_methodsAll hwf rest
  | str8 k m =>
    exact decode_store (b1 := 0x01) (mk := .str8) (reg8OfCode_reg8Code k)
      (fun m => decodeStr8_memCode m _) m rest
  | strImm v adr =>
    exact (decode_strImm v _ _ rest).trans
      (congrArg (fun w => Decoded.done (.strImm v w) 5) (word_hi8_lo8 adr))
  | mov16 kii kjj =>
    exact decodeRegReg_append_some .mov16 rest (reg16OfCode_reg16Code kii) (reg16OfCode_reg16Code kjj)
  | exc16 kii kjj => exact decode_exc16 kii kjj rest
  | lda16 k x =>
    rw [encode_lda16 hwf 0]
    exact decode_encodeSrc16_of_notReg (mk := .lda16) v_mem_methodsAll (reg16OfCode_reg16Code k)
      (fun _ _ => rfl) x.memIn_methodsAll hwf rest
  | str16 k m => exact decode_store (mk := .str16) (reg16OfCode_reg16Code k) (fun _ _ => rfl) m rest
  | and d x =>
    exact decode_encodeSrc8 (mk := .and) v_mem_methodsAll (accOfCode_accCode d) (fun _ _ => rfl)
      (fun _ _ => rfl) x.memIn_methodsAll rest
  | or d x =>
    exact decode_encodeSrc8 (mk := .or) v_mem_methodsAll (accOfCode_accCode d) (fun _ _ => rfl)
      (fun _ _ => rfl) x.memIn_methodsAll rest
  | xor d x =>
    exact decode_encodeSrc8 (b1 := 0x14) (rg := 0x54) (mk := .xor) v_mem_methodsAll (accOfCode_accCode d)
      (fun m => decodeJump_methodRegByte _ _ m _) (fun _ _ => rfl) x.memIn_methodsAll rest
  | clr x => exact decode_encodeOne (mk := .clr) (fun _ => rfl) (fun _ => rfl) x rest
  | inc x => exact decode_encodeOne (mk := .inc) (fun _ => rfl) (fun _ => rfl) x rest
  | dec x => exact decode_encodeOne (mk := .dec) (fun _ => rfl) (fun _ => rfl) x rest
  | com x => exact decode_encodeOne (mk := .com) (fun _ => rfl) (fun _ => rfl) x rest
  | neg x => exact decode_encodeOne (mk := .neg) (fun _ => rfl) (fun _ => rfl) x rest
  | clrBit n x => exact decode_encodeBit (mk := .clrBit) (fun _ => rfl) (fun _ => rfl) n x rest
  | setBit n x => exact decode_encodeBit (mk := .setBit) (fun _ => rfl) (fun _ => rfl) n x rest
  | clrFlag f => exact (decode_flagForms_some rest (flagOfCode_flagCode f)).1
  | setFlag f => exact (decode_flagForms_some rest (flagOfCode_flagCode f)).2
  | inc16 k => exact decodeField_append_some _ .inc16 rest (reg16OfCode_reg16Code k)
  | dec16 k => exact decodeField_append_some _ .dec16 rest (reg16OfCode_reg16Code k)
  | daa d => exact decodeField_append_some _ .daa rest (accOfCode_accCode d)
  | psh k => exact decodeField_append_some _ .psh rest (accOfCode_accCode k)
  | pul d => exact decodeField_append_some _ .pul rest (accOfCode_accCode d)
  | ein => rfl
  | din => rfl
  | nop => exact decode_nop rest
  | rts => rfl
  | rti => rfl
  | int => rfl
  | lsl x => exact decode_encodeShift (mk := .lsl) (fun _ => rfl) (fun _ => rfl) x rest
  | lsr x => exact decode_encodeShift (mk := .lsr) (fun _ => rfl) (fun _ => rfl) x rest
  | asr x => exact decode_encodeShift (mk := .asr) (fun _ => rfl) (fun _ => rfl) x rest
  | rol x => exact decode_encodeShift (mk := .rol) (fun _ => rfl) (fun _ => rfl) x rest
  | ror x => exact decode_encodeShift (mk := .ror) (fun _ => rfl) (fun _ => rfl) x rest
  | cmp8 k x =>
    exact decode_encodeSrc8 (b1 := 0x1E) (rg := 0x5E) (mk := .cmp8) v_mem_methodsToU
      (reg8OfCode_reg8Code k) (fun m => decodeJump_methodRegByte _ _ m _)
      (fun k => decodeCmpRegOrSetFlag_regReg _ k)
      (x.memAll_iff_methodsToU.1 hwf) rest
  | cmp16 k x =>
    exact decode_encodeSrc16 (mk := .cmp16) v_mem_methodsToU (reg16OfCode_reg16Code k)
      (fun _ _ => rfl) (fun _ _ => rfl) (x.memAll_iff_methodsToU.1 hwf) rest
  | bit k x =>
    exact decode_encodeSrc8 (b1 := 0x1F) (rg := 0x5F) (mk := .bit) v_mem_methodsToU
      (reg8OfCode_reg8Code k) (fun m => decodeFlagJump_methodRegByte _ _ m _) (fun _ _ => rfl)
      (x.memAll_iff_methodsToU.1 hwf) rest
  | bra p => exact decodeRel_cons .bra p rest
  | jmp adr => exact decodeAdr_hi_lo .jmp adr rest
  | jmc f adr => exact decodeFlagJump_hi_lo _ _ hwf adr rest
  | beq p => exact decodeRel_cons .beq p rest
  | bne p => exact decodeRel_cons .bne p rest
  | bgt p => exact decodeRel_cons .bgt p rest
  | bge p => exact decodeRel_cons .bge p rest
  | bls p => exact decodeRel_cons .bls p rest
  | bhi p => exact decodeRel_cons .bhi p rest
  | bhe p => exact decodeRel_cons .bhe p rest
  | blo p => exact decodeRel_cons .blo p rest
  | bio p => exact decodeRel_cons .bio p rest
  | bno p => exact decodeRel_cons .bno p rest
  | bic p => exact decodeRel_cons .bic p rest
  | bnc p => exact decodeRel_cons .bnc p rest
  | bih p => exact decodeRel_cons .bih p rest
  | bnh p => exact decodeRel_cons .bnh p rest
  | bsr p => exact decodeRel_cons .bsr p rest
  | jsr adr => exact decodeAdr_hi_lo .jsr adr rest
  | bscRel f p => exact decode_relCall (notY_relCallFlags hwf) (p :: rest)
  | bscAbs f adr => exact decodeFlagJump_hi_lo .bscAbs (fun _ => .illegal .secondByte) hwf adr rest
  | dbnzReg k p => exact decode_dbnzReg k p rest
  | dbnzMem p adr =>
    exact congrArg (fun w => Decoded.done (.dbnzMem p w) 4) (word_hi8_lo8 adr)

end Sys2Proof
end


section
/-! What every row of the first-byte map reads (30_encoding sections 2 and 3): an instruction that the
decoder reads is well formed and stands encoded in the bytes, and further bytes change no answer. -/

namespace Sys2Proof

open Machine

/-! ### Codes are determined by what they name (rules R23, R87, R91, R94) -/

theorem reg8Code_of_reg8OfCode {c : BitVec 3} {k : Reg8} (h : reg8OfCode c = some k) :
    c = reg8Code k := by
  revert c
  cases k <;> decide

theorem reg16Code_of_reg16OfCode {c : BitVec 3} {k : Reg16} (h : reg16OfCode c = some k) :
    c = reg16Code k := by
  revert c
  cases k <;> decide

theorem accCode_of_accOfCode {c : BitVec 3} {d : Acc} (h : accOfCode c = some d) : c = accCode d := by
  revert c
  cases d <;> decide

/-- The code of the fixed names AB and A (rules R23, R87). -/
def fixedCode (_ : Unit) : BitVec 3 := 0

theorem fixedCode_of_fixedOfCode {c : BitVec 3} {u : Unit} (h : fixedOfCode c = some u) :
    c = fixedCode u := by
  revert c
  cases u
  decide

theorem flagCode_of_flagOfCode {c : BitVec 3} {f : Flag} (h : flagOfCode c = some f) :
    c = flagCode f := by
  revert c
  cases f <;> decide

theorem flagAdrCode_of_flagAdrOfCode {c : BitVec 3} {f : Flag} (h : flagAdrOfCode c = some f) :
    f.notY = true ∧ c = flagAdrCode f := by
  revert c
  cases f <;> decide

theorem zero_of_methodOfCode_v {c : BitVec 3} (h : methodOfCode c = .v) : c = 0 := by
  revert c
  decide

theorem memCode_of_methodOfCode {c : BitVec 3} {m : Mem} (h : methodOfCode c = memMethod m) :
    c = memCode m := by
  revert c
  cases m <;> simp only [memMethod, memCode] <;> decide

/-! ### Bytes are made of their fields (rules R88 to R93) -/

theorem field73_append_field20 (b : Byte) : field73 b ++ field20 b = b := by
  revert b
  decide

theorem field75_append_low5 (b : Byte) : field75 b ++ (b.extractLsb' 0 5 : BitVec 5) = b := by
  revert b
  decide

theorem eq_regRegByte {b : Byte} (h : (b.extractLsb' 6 2 : BitVec 2) = 0) :
    b = regRegByte (field53 b) (field20 b) := by
  revert b
  decide

theorem eq_methodRegByte {b : Byte} (h : (b.extractLsb' 3 2 : BitVec 2) = 0) :
    b = methodRegByte (field75 b) (field20 b) := by
  revert b
  decide

theorem eq_fieldByte {b : Byte} {top : BitVec 5} (h : field73 b = top) :
    b = fieldByte top (field20 b) := by
  rw [fieldByte, ← h, field73_append_field20]

theorem methodByte_eq_some {α : Type} {ms : List Method} {reg : BitVec 3 → Option α} {b : Byte}
    {m : Method} {r : α} (h : methodByte ms reg b = some (m, r)) :
    ∃ d c, b = methodRegByte d c ∧ methodOfCode d = m ∧ m ∈ ms ∧ reg c = some r := by
  simp only [methodByte] at h
  split at h
  next hb =>
    obtain ⟨hmid, hms⟩ := hb
    simp only [Option.map_eq_some_iff, Prod.mk.injEq] at h
    obtain ⟨a, ha, rfl, rfl⟩ := h
    exact ⟨_, _, eq_methodRegByte hmid, rfl, hms, ha⟩
  next => cases h

theorem methodLow_eq_some {low : BitVec 5} {b : Byte} {m : Method} (h : methodLow low b = some m) :
    ∃ d : BitVec 3, b = d ++ low ∧ methodOfCode d = m := by
  simp only [methodLow] at h
  split at h
  next hb =>
    obtain ⟨hlow, -⟩ := hb
    cases h
    exact ⟨field75 b, by rw [← hlow, field75_append_low5], rfl⟩
  next => cases h

theorem shiftMethod_eq_some {b : Byte} {x : Mem} (h : shiftMethod b = some (memMethod x)) :
    b = shiftMemByte x := by
  revert b
  cases x <;> simp only [shiftMemByte, memCode, memMethod] <;> decide

theorem bitNumber_eq_some {b : Byte} {n : BitVec 3} (h : bitNumber b = some n) : b = fieldByte 0 n := by
  unfold bitNumber at h
  split at h
  next hb =>
    cases h
    exact eq_fieldByte hb
  next => cases h

/-! ### The answers of a row -/

/-- What the decoder may answer on the bytes `bs`: an instruction of at most `maxLength` bytes that is
well formed and whose encoding `bs` begins with; and it does not refuse the first byte. -/
def SoundOn (bs : List Byte) : Decoded → Prop
  | .done i n => i.wf = true ∧ n ≤ maxLength ∧ n = (encode i).length ∧ ∃ rest, bs = encode i ++ rest
  | .more => True
  | .illegal why => why ≠ .firstByte

/-- An answer other than `more` stays when further bytes follow. -/
def Stable (D : List Byte → Decoded) : Prop := ∀ bs rest, D bs ≠ .more → D (bs ++ rest) = D bs

/-- `D` reads the rows with first byte `b1`. -/
structure ReadsRow (b1 : Byte) (D : List Byte → Decoded) : Prop where
  sound : ∀ bs, SoundOn (b1 :: bs) (D bs)
  stable : Stable D

theorem soundOn_done {i : Instr} {e rest : List Byte} {n : Nat} (hwf : i.wf = true)
    (he : encode i = e) (hn : n = e.length) (hle : n ≤ maxLength) :
    SoundOn (e ++ rest) (.done i n) :=
  ⟨hwf, hle, he ▸ hn, rest, by rw [he]⟩

theorem soundOn_illegal {bs : List Byte} {why : Illegal} (h : why ≠ .firstByte) :
    SoundOn bs (.illegal why) := h

/-- A row in which `test` reads the second byte and `F` the bytes after it. -/
theorem readsRow_second {γ : Type} {b1 : Byte} {E : List Byte → Decoded} (test : Byte → Option γ)
    (F : γ → List Byte → Decoded) (hnil : E [] = .more)
    (hcons : ∀ b2 rest, E (b2 :: rest) = (test b2).elim (.illegal .secondByte) fun r => F r rest)
    (hsound : ∀ b2 r rest, test b2 = some r → SoundOn (b1 :: b2 :: rest) (F r rest))
    (hstable : ∀ r, Stable (F r)) : ReadsRow b1 E where
  sound bs := by
    match bs with
    | [] => rw [hnil]; trivial
    | b2 :: rest =>
      rw [hcons]
      cases hb : test b2 with
      | some r => exact hsound b2 r rest hb
      | none => exact soundOn_illegal (by decide)
  stable bs rest h := by
    match bs with
    | [] => exact absurd hnil h
    | b2 :: t =>
      rw [List.cons_append, hcons, hcons]
      rw [hcons] at h
      cases hb : test b2 with
      | some r =>
        rw [hb] at h
        exact hstable r t rest h
      | none => rfl

/-! ### Operand bytes (rules R50, R62 to R68) -/

theorem add_memBytes_le {base : Nat} (h : base ≤ 3) (x : Mem) :
    base + (memBytes x).length ≤ maxLength := by
  have := Laws.EncodingLength.memBytes_length x
  simp only [maxLength]
  omega

/-- What a memory operand reads is its method and its operand bytes. -/
theorem decodeMem_sound {m : Method} {base : Nat} {mk : Mem → Instr} {bs all : List Byte}
    (h : ∀ x rest, memMethod x = m → bs = memBytes x ++ rest →
      SoundOn all (.done (mk x) (base + (memBytes x).length))) :
    SoundOn all (decodeMem m base mk bs) := by
  have hmore : SoundOn all .more := trivial
  cases m with
  | v => exact soundOn_illegal (by decide)
  | k => exact h .indirect bs rfl rfl
  | d =>
    match bs with
    | a :: b :: rest =>
      have hbytes : memBytes (.direct (word a b)) = [a, b] := by
        rw [memBytes, hi8_word, lo8_word]
      have hdone := h (.direct (word a b)) rest rfl (by rw [hbytes]; rfl)
      rwa [hbytes] at hdone
    | [] | [_] => exact hmore
  | s =>
    match bs with
    | o :: rest => exact h (.indexed o) rest rfl rfl
    | [] => exact hmore
  | r =>
    match bs with
    | o :: r :: rest => exact h (.incremental o r) rest rfl rfl
    | [] | [_] => exact hmore
  | z =>
    match bs with
    | o :: r :: rest => exact h (.decremental o r) rest rfl rfl
    | [] | [_] => exact hmore
  | u =>
    match bs with
    | o :: rest => exact h (.indirectSk o) rest rfl rfl
    | [] => exact hmore
  | y =>
    match bs with
    | o :: rest => exact h (.indexedYg o) rest rfl rfl
    | [] => exact hmore

theorem decodeMem_stable (m : Method) (base : Nat) (mk : Mem → Instr) :
    Stable (decodeMem m base mk) := by
  intro bs rest h
  cases m with
  | v => rfl
  | k => rfl
  | s | u | y =>
    match bs with
    | [] => exact absurd rfl h
    | _ :: _ => rfl
  | d | r | z =>
    match bs with
    | [] | [_] => exact absurd rfl h
    | _ :: _ :: _ => rfl

/-- What an 8-bit source reads is an immediate byte or a memory operand. -/
theorem decodeSrc8_sound {m : Method} {mk : Src8 → Instr} {bs all : List Byte}
    (himm : ∀ v rest, m = .v → bs = v :: rest → SoundOn all (.done (mk (.imm v)) 3))
    (hmem : ∀ x rest, memMethod x = m → bs = memBytes x ++ rest →
      SoundOn all (.done (mk (.mem x)) (2 + (memBytes x).length))) :
    SoundOn all (decodeSrc8 m mk bs) := by
  cases m with
  | v =>
    match bs with
    | v :: rest => exact himm v rest rfl rfl
    | [] => trivial
  | _ => exact decodeMem_sound hmem

theorem decodeSrc8_stable (m : Method) (mk : Src8 → Instr) : Stable (decodeSrc8 m mk) := by
  by_cases hm : m = .v
  · subst hm
    intro bs rest h
    match bs with
    | [] => exact absurd rfl h
    | _ :: _ => rfl
  · rw [decodeSrc8_of_ne_v hm]
    exact decodeMem_stable _ _ _

/-- What a 16-bit source reads is two immediate bytes or a memory operand. -/
theorem decodeSrc16_sound {m : Method} {mk : Src16 → Instr} {bs all : List Byte}
    (himm : ∀ h l rest, m = .v → bs = h :: l :: rest → SoundOn all (.done (mk (.imm (word h l))) 4))
    (hmem : ∀ x rest, memMethod x = m → bs = memBytes x ++ rest →
      SoundOn all (.done (mk (.mem x)) (2 + (memBytes x).length))) :
    SoundOn all (decodeSrc16 m mk bs) := by
  cases m with
  | v =>
    match bs with
    | h :: l :: rest => exact himm h l rest rfl rfl
    | [] | [_] => trivial
  | _ => exact decodeMem_sound hmem

theorem decodeSrc16_stable (m : Method) (mk : Src16 → Instr) : Stable (decodeSrc16 m mk) := by
  by_cases hm : m = .v
  · subst hm
    intro bs rest h
    match bs with
    | [] | [_] => exact absurd rfl h
    | _ :: _ :: _ => rfl
  · rw [decodeSrc16_of_ne_v hm]
    exact decodeMem_stable _ _ _

/-! ### Two-operand rows (rules R88, R89) -/

section
variable {α β : Type} {b1 : Byte} {reg : BitVec 3 → Option α} {code : α → BitVec 3}

/-- Memory and immediate forms of an 8-bit source. -/
theorem readsRow_regSrc8 (ms : List Method) (mk : α → Src8 → Instr) (rg : Byte)
    (hcode : ∀ {c a}, reg c = some a → c = code a)
    (hwf : ∀ a x, x.notReg = true → x.memIn ms → (mk a x).wf = true := by intros; rfl)
    (henc : ∀ a x, x.notReg = true → encode (mk a x) = encodeSrc8 b1 rg (code a) x := by intros; rfl) :
    ReadsRow b1 (decodeRegSrc8 ms reg mk) := by
  refine readsRow_second (methodByte ms reg) (fun r => decodeSrc8 r.1 (mk r.2)) rfl
    (fun b2 _ => by simp only [decodeRegSrc8]; cases methodByte ms reg b2 <;> rfl) ?_
    fun r => decodeSrc8_stable r.1 (mk r.2)
  · rintro b2 ⟨m, a⟩ rest hb
    obtain ⟨d, c, rfl, rfl, hms, ha⟩ := methodByte_eq_some hb
    obtain rfl := hcode ha
    refine decodeSrc8_sound (fun v rest hv hbs => ?_) (fun x rest hx hbs => ?_)
    · rw [zero_of_methodOfCode_v hv, hbs]
      exact soundOn_done (hwf a (.imm v) rfl trivial) (henc a _ rfl) rfl (by decide)
    · rw [memCode_of_methodOfCode hx.symm, hbs]
      have hin : (Src8.mem x).memIn ms := by rw [Src8.memIn, hx]; exact hms
      exact soundOn_done (hwf a _ rfl hin) (henc a _ rfl) (Nat.add_comm _ _)
        (add_memBytes_le (by decide) x)

/-- Memory and immediate forms of a 16-bit source. -/
theorem readsRow_regSrc16 (ms : List Method) (mk : α → Src16 → Instr) (rg : Byte)
    (hcode : ∀ {c a}, reg c = some a → c = code a)
    (hwf : ∀ a x, x.notReg = true → x.memIn ms → (mk a x).wf = true := by intros; rfl)
    (henc : ∀ a x, x.notReg = true → encode (mk a x) = encodeSrc16 b1 rg (code a) x := by intros; rfl) :
    ReadsRow b1 (decodeRegSrc16 ms reg mk) := by
  refine readsRow_second (methodByte ms reg) (fun r => decodeSrc16 r.1 (mk r.2)) rfl
    (fun b2 _ => by simp only [decodeRegSrc16]; cases methodByte ms reg b2 <;> rfl) ?_
    fun r => decodeSrc16_stable r.1 (mk r.2)
  · rintro b2 ⟨m, a⟩ rest hb
    obtain ⟨d, c, rfl, rfl, hms, ha⟩ := methodByte_eq_some hb
    obtain rfl := hcode ha
    refine decodeSrc16_sound (fun h l rest hv hbs => ?_) (fun x rest hx hbs => ?_)
    · rw [zero_of_methodOfCode_v hv, hbs]
      have he := henc a (.imm (word h l)) rfl
      simp only [encodeSrc16, hi8_word, lo8_word] at he
      exact soundOn_done (hwf a (.imm (word h l)) rfl trivial) he rfl (by decide)
    · rw [memCode_of_methodOfCode hx.symm, hbs]
      have hin : (Src16.mem x).memIn ms := by rw [Src16.memIn, hx]; exact hms
      exact soundOn_done (hwf a _ rfl hin) (henc a _ rfl) (Nat.add_comm _ _)
        (add_memBytes_le (by decide) x)

/-- Stores. -/
theorem readsRow_store (mk : α → Mem → Instr) (hcode : ∀ {c a}, reg c = some a → c = code a)
    (hwf : ∀ a x, (mk a x).wf = true := by intros; rfl)
    (henc : ∀ a x, encode (mk a x) =
      b1 :: methodRegByte (memCode x) (code a) :: memBytes x := by intros; rfl) :
    ReadsRow b1 (decodeStore reg mk) := by
  refine readsRow_second (methodByte methodsMem reg) (fun r => decodeMem r.1 2 (mk r.2)) rfl
    (fun b2 _ => by simp only [decodeStore]; cases methodByte methodsMem reg b2 <;> rfl) ?_
    fun r => decodeMem_stable r.1 2 (mk r.2)
  rintro b2 ⟨m, a⟩ rest hb
  obtain ⟨d, c, rfl, rfl, -, ha⟩ := methodByte_eq_some hb
  obtain rfl := hcode ha
  refine decodeMem_sound (fun x rest hx hbs => ?_)
  rw [memCode_of_methodOfCode hx.symm, hbs]
  exact soundOn_done (hwf a x) (henc a x) (Nat.add_comm _ _) (add_memBytes_le (by decide) x)

/-- Two-register forms. -/
theorem readsRow_regReg {reg2 : BitVec 3 → Option β} {code2 : β → BitVec 3} (mk : α → β → Instr)
    (hcode : ∀ {c a}, reg c = some a → c = code a) (hcode2 : ∀ {c b}, reg2 c = some b → c = code2 b)
    (hwf : ∀ a b, (mk a b).wf = true := by intros; rfl)
    (henc : ∀ a b, encode (mk a b) = [b1, regRegByte (code a) (code2 b)] := by intros; rfl) :
    ReadsRow b1 (decodeRegReg reg reg2 mk) where
  sound bs := by
    match bs with
    | [] => trivial
    | b2 :: rest =>
      simp only [decodeRegReg]
      split
      next htop =>
        split
        next a b ha hb =>
          rw [eq_regRegByte htop, hcode ha, hcode2 hb]
          exact soundOn_done (hwf a b) (henc a b) rfl (by decide)
        next => exact soundOn_illegal (by decide)
      next => exact soundOn_illegal (by decide)
  stable bs rest h := by
    match bs with
    | [] => exact absurd rfl h
    | _ :: _ => rfl

/-- Forms with one field in the second byte. -/
theorem readsRow_field {top : BitVec 5} (mk : α → Instr) (hcode : ∀ {c a}, reg c = some a → c = code a)
    (hwf : ∀ a, (mk a).wf = true := by intros; rfl)
    (henc : ∀ a, encode (mk a) = [b1, fieldByte top (code a)] := by intros; rfl) :
    ReadsRow b1 (decodeField top reg mk) where
  sound bs := by
    match bs with
    | [] => trivial
    | b2 :: rest =>
      simp only [decodeField]
      split
      next htop =>
        split
        next a ha =>
          rw [eq_fieldByte htop, hcode ha]
          exact soundOn_done (hwf a) (henc a) rfl (by decide)
        next => exact soundOn_illegal (by decide)
      next => exact soundOn_illegal (by decide)
  stable bs rest h := by
    match bs with
    | [] => exact absurd rfl h
    | _ :: _ => rfl

end

/-! ### One-operand rows (rules R92, R93) -/

theorem decodeRegByte_sound {b : Byte} {mk : Reg8 → Instr} {len : Nat} {all : List Byte}
    (h : ∀ k, b = fieldByte 0 (reg8Code k) → SoundOn all (.done (mk k) len)) :
    SoundOn all (decodeRegByte b mk len) := by
  unfold decodeRegByte
  split
  next htop =>
    split
    next k hk => exact h k (by rw [← reg8Code_of_reg8OfCode hk]; exact eq_fieldByte htop)
    next => exact soundOn_illegal (by decide)
  next => exact soundOn_illegal (by decide)

/-- Register forms of CLR, INC, decodeOneMem, COM, NEG. -/
theorem readsRow_oneReg {b1 : Byte} (mk : Operand8 → Instr) (bm : Byte)
    (hwf : ∀ x, (mk x).wf = true := by intros; rfl)
    (henc : ∀ x, encode (mk x) = encodeOne bm b1 x := by intros; rfl) :
    ReadsRow b1 (decodeOneReg b1 mk) where
  sound bs := by
    match bs with
    | [] => trivial
    | b2 :: rest =>
      simp only [decodeOneReg]
      split
      next hb =>
        subst hb
        match rest with
        | [] => trivial
        | b3 :: rest =>
          refine decodeRegByte_sound (fun k hk => ?_)
          rw [hk]
          exact soundOn_done (hwf _) (henc _) rfl (by decide)
      next => exact soundOn_illegal (by decide)
  stable bs rest h := by
    match bs with
    | [] => exact absurd rfl h
    | [b2] =>
      simp only [decodeOneReg, List.cons_append] at h ⊢
      split at h
      next => exact absurd rfl h
      next hb => simp only [hb, if_false]
    | _ :: _ :: _ => rfl

/-- Memory forms of CLR, INC, decodeShiftMem, COM, NEG. -/
theorem readsRow_oneMem {b1 : Byte} (mk : Operand8 → Instr) (br : Byte)
    (hwf : ∀ x, (mk x).wf = true := by intros; rfl)
    (henc : ∀ x, encode (mk x) = encodeOne b1 br x := by intros; rfl) :
    ReadsRow b1 (decodeOneMem mk) := by
  refine readsRow_second (methodLow 0b01011) (fun m => decodeMem m 2 fun x => mk (.mem x)) rfl
    (fun b2 _ => by simp only [decodeOneMem]; cases methodLow 0b01011 b2 <;> rfl)
    (fun b2 m rest hb => ?_) fun m => decodeMem_stable m 2 _
  obtain ⟨d, rfl, rfl⟩ := methodLow_eq_some hb
  refine decodeMem_sound (fun x rest hx hbs => ?_)
  rw [memCode_of_methodOfCode hx.symm, hbs]
  exact soundOn_done (hwf _) (henc _) (Nat.add_comm _ _) (add_memBytes_le (by decide) x)

/-- Register forms of CLR N,x and SET N,x. -/
theorem readsRow_bitReg {b1 second : Byte} (mk : BitVec 3 → Operand8 → Instr) (bm : Byte)
    (hwf : ∀ n x, (mk n x).wf = true := by intros; rfl)
    (henc : ∀ n x, encode (mk n x) = encodeBit bm b1 second n x := by intros; rfl) :
    ReadsRow b1 (decodeBitReg second mk) where
  sound bs := by
    match bs with
    | [] => trivial
    | b2 :: rest =>
      simp only [decodeBitReg]
      split
      next hb =>
        subst hb
        match rest with
        | [] | [_] => trivial
        | b3 :: b4 :: rest =>
          simp only
          split
          next n hn =>
            refine decodeRegByte_sound (fun k hk => ?_)
            rw [bitNumber_eq_some hn, hk]
            exact soundOn_done (hwf _ _) (henc _ _) rfl (by decide)
          next => exact soundOn_illegal (by decide)
      next => exact soundOn_illegal (by decide)
  stable bs rest h := by
    match bs with
    | [] => exact absurd rfl h
    | [b2] | [b2, _] =>
      simp only [decodeBitReg, List.cons_append] at h ⊢
      split at h
      next => exact absurd rfl h
      next hb => simp only [hb, if_false]
    | _ :: _ :: _ :: _ => rfl

theorem checkBit_sound {n : Option (BitVec 3)} {r : BitVec 3 → Decoded} {all : List Byte}
    (h : ∀ k, n = some k → SoundOn all (r k)) : SoundOn all (checkBit n r) := by
  unfold checkBit
  split
  next k => exact h k rfl
  next =>
    split
    next => trivial
    next => exact soundOn_illegal (by decide)

theorem checkBit_stable (n : Option (BitVec 3)) {r : BitVec 3 → List Byte → Decoded}
    (h : ∀ k, Stable (r k)) : Stable fun bs => checkBit n fun k => r k bs := by
  intro bs rest hne
  cases n with
  | some k => exact h k bs rest hne
  | none =>
    have h0 : r 0 bs ≠ .more := fun hmore => hne (by simp only [checkBit, hmore])
    simp only [checkBit, h 0 bs rest h0]

/-- The bit number and the operand bytes, after a second byte that gives the method `m`. -/
def decodeBitMemRest (mk : BitVec 3 → Operand8 → Instr) (m : Method) : List Byte → Decoded
  | [] => .more
  | b3 :: rest => checkBit (bitNumber b3) fun n => decodeMem m 3 (fun x => mk n (.mem x)) rest

theorem decodeBitMemRest_stable (mk : BitVec 3 → Operand8 → Instr) (m : Method) :
    Stable (decodeBitMemRest mk m) := by
  intro bs rest h
  match bs with
  | [] => exact absurd rfl h
  | b3 :: t =>
    exact checkBit_stable (bitNumber b3) (fun n => decodeMem_stable m 3 fun x => mk n (.mem x)) t rest h

/-- Memory forms of CLR N,x and SET N,x. -/
theorem readsRow_bitMem {b1 : Byte} (mk : BitVec 3 → Operand8 → Instr) (br second : Byte)
    (hwf : ∀ n x, (mk n x).wf = true := by intros; rfl)
    (henc : ∀ n x, encode (mk n x) = encodeBit b1 br second n x := by intros; rfl) :
    ReadsRow b1 (decodeBitMem mk) := by
  refine readsRow_second (methodLow 0b01110) (decodeBitMemRest mk) rfl
    (fun b2 rest => by
      simp only [decodeBitMem]
      cases methodLow 0b01110 b2 <;> cases rest <;> rfl)
    (fun b2 m rest hb => ?_) (decodeBitMemRest_stable mk)
  obtain ⟨d, rfl, rfl⟩ := methodLow_eq_some hb
  match rest with
  | [] => trivial
  | b3 :: rest =>
    refine checkBit_sound (fun n hn => decodeMem_sound (fun x rest hx hbs => ?_))
    rw [memCode_of_methodOfCode hx.symm, bitNumber_eq_some hn, hbs]
    exact soundOn_done (hwf _ _) (henc _ _) (Nat.add_comm _ _) (add_memBytes_le (by decide) x)

/-- Memory forms of the shifts and rotates. -/
theorem readsRow_shiftMem {b1 : Byte} (mk : Operand8 → Instr) (br : Byte) (mid : BitVec 1)
    (hwf : ∀ x, (mk x).wf = true := by intros; rfl)
    (henc : ∀ x, encode (mk x) = encodeShift b1 br mid x := by intros; rfl) :
    ReadsRow b1 (decodeShiftMem mk) := by
  refine readsRow_second shiftMethod (fun m => decodeMem m 2 fun x => mk (.mem x)) rfl
    (fun b2 _ => by simp only [decodeShiftMem]; cases shiftMethod b2 <;> rfl) (fun b2 m rest hb => ?_)
    fun m => decodeMem_stable m 2 _
  refine decodeMem_sound (fun x rest hx hbs => ?_)
  rw [shiftMethod_eq_some (hb.trans (congrArg some hx.symm)), hbs]
  exact soundOn_done (hwf _) (henc _) (Nat.add_comm _ _) (add_memBytes_le (by decide) x)

theorem eq_shiftRegByte {b : Byte} {mid : BitVec 1} {k : Reg8}
    (h : field73 b = 0b01000 ∧ (b.extractLsb' 2 1 : BitVec 1) = mid)
    (hk : reg8OfCode ((b.extractLsb' 0 2 : BitVec 2).setWidth 3) = some k) :
    b = (0b01000 : BitVec 5) ++ mid ++ (reg8Code k).extractLsb' 0 2 := by
  rw [← reg8Code_of_reg8OfCode hk]
  clear hk
  revert b mid
  decide

/-- Register forms of the shifts and rotates. -/
theorem readsRow_shiftReg {b1 : Byte} {mid : BitVec 1} (mk : Operand8 → Instr) (bm : Byte)
    (hwf : ∀ x, (mk x).wf = true := by intros; rfl)
    (henc : ∀ x, encode (mk x) = encodeShift bm b1 mid x := by intros; rfl) :
    ReadsRow b1 (decodeShiftReg mid mk) where
  sound bs := by
    match bs with
    | [] => trivial
    | b2 :: rest =>
      simp only [decodeShiftReg]
      split
      next hb =>
        split
        next k hk =>
          rw [eq_shiftRegByte hb hk]
          exact soundOn_done (hwf _) (henc _) rfl (by decide)
        next => exact soundOn_illegal (by decide)
      next => exact soundOn_illegal (by decide)
  stable bs rest h := by
    match bs with
    | [] => exact absurd rfl h
    | _ :: _ => rfl

/-! ### Rows of whole bytes, and rows that two operations share (rules R94 to R98) -/

/-- A one-byte instruction. -/
theorem readsRow_single {b1 : Byte} (i : Instr) (hwf : i.wf = true := by rfl)
    (henc : encode i = [b1] := by rfl) :
    ReadsRow b1 fun _ => .done i 1 where
  sound _ := soundOn_done hwf henc rfl (by decide)
  stable _ _ _ := rfl

/-- A relative instruction. -/
theorem readsRow_rel {b1 : Byte} (mk : Byte → Instr) (hwf : ∀ p, (mk p).wf = true := by intros; rfl)
    (henc : ∀ p, encode (mk p) = [b1, p] := by intros; rfl) : ReadsRow b1 (decodeRel mk) where
  sound bs := by
    match bs with
    | [] => trivial
    | p :: rest => exact soundOn_done (hwf p) (henc p) rfl (by decide)
  stable bs rest h := by
    match bs with
    | [] => exact absurd rfl h
    | _ :: _ => rfl

theorem decodeAdr_sound {b1 b2 : Byte} {mk : Word → Instr} (bs : List Byte)
    (hwf : ∀ adr, (mk adr).wf = true) (henc : ∀ adr, encode (mk adr) = [b1, b2, hi8 adr, lo8 adr]) :
    SoundOn (b1 :: b2 :: bs) (decodeAdr mk bs) := by
  match bs with
  | [] | [_] => trivial
  | h :: l :: rest =>
    have he := henc (word h l)
    rw [hi8_word, lo8_word] at he
    exact soundOn_done (hwf _) he rfl (by decide)

theorem decodeAdr_stable (mk : Word → Instr) : Stable (decodeAdr mk) := by
  intro bs rest h
  match bs with
  | [] | [_] => exact absurd rfl h
  | _ :: _ :: _ => rfl

/-- JMP and JSR, with the operation that shares the first byte. -/
theorem readsRow_jump {b1 : Byte} (mk : Word → Instr) {other : List Byte → Decoded}
    (hother : ReadsRow b1 other) (hwf : ∀ adr, (mk adr).wf = true := by intros; rfl)
    (henc : ∀ adr, encode (mk adr) = [b1, 0b00101000, hi8 adr, lo8 adr] := by intros; rfl) :
    ReadsRow b1 (decodeJump mk other) where
  sound bs := by
    match bs with
    | [] => trivial
    | b2 :: rest =>
      simp only [decodeJump]
      split
      next hb =>
        subst hb
        exact decodeAdr_sound rest hwf henc
      next => exact hother.sound _
  stable bs rest h := by
    match bs with
    | [] => exact absurd rfl h
    | b2 :: t =>
      simp only [decodeJump, List.cons_append] at h ⊢
      split at h
      next hb => rw [if_pos hb, if_pos hb]; exact decodeAdr_stable mk t rest h
      next hb => rw [if_neg hb, if_neg hb]; exact hother.stable (b2 :: t) rest h

/-- JMC and BSC with an address, with the operation that shares the first byte. -/
theorem readsRow_flagJump {b1 : Byte} (mk : Flag → Word → Instr) {other : List Byte → Decoded}
    (hother : ReadsRow b1 other)
    (hwf : ∀ f adr, f.notY = true → (mk f adr).wf = true := by intros; assumption)
    (henc : ∀ f adr, encode (mk f adr) =
      [b1, fieldByte 0b00111 (flagAdrCode f), hi8 adr, lo8 adr] := by intros; rfl) :
    ReadsRow b1 (decodeFlagJump mk other) where
  sound bs := by
    match bs with
    | [] => trivial
    | b2 :: rest =>
      simp only [decodeFlagJump]
      split
      next hb =>
        split
        next f hf =>
          obtain ⟨hy, hc⟩ := flagAdrCode_of_flagAdrOfCode hf
          rw [eq_fieldByte hb, hc]
          exact decodeAdr_sound rest (fun adr => hwf f adr hy) (henc f)
        next => exact soundOn_illegal (by decide)
      next => exact hother.sound _
  stable bs rest h := by
    match bs with
    | [] => exact absurd rfl h
    | b2 :: t =>
      simp only [decodeFlagJump, List.cons_append] at h ⊢
      split at h
      next hb =>
        simp only [hb, if_true]
        split at h
        next f hf => simpa only [hf] using decodeAdr_stable (mk f) t rest h
        next => rfl
      next hb => rw [if_neg hb, if_neg hb]; exact hother.stable (b2 :: t) rest h

theorem readsRow_illegal (b1 : Byte) : ReadsRow b1 fun _ => .illegal .secondByte where
  sound _ := soundOn_illegal (by decide)
  stable _ _ _ := rfl

/-- A row that bits 7 and 6 of the second byte share out. -/
theorem readsRow_ite {b1 : Byte} {D other : List Byte → Decoded} {p : Byte → Prop} [DecidablePred p]
    {E : List Byte → Decoded} (hnil : E [] = .more)
    (hcons : ∀ b2 rest, E (b2 :: rest) = if p b2 then D (b2 :: rest) else other (b2 :: rest))
    (hD : ReadsRow b1 D) (hother : ReadsRow b1 other) : ReadsRow b1 E where
  sound bs := by
    match bs with
    | [] => rw [hnil]; trivial
    | b2 :: rest =>
      rw [hcons]
      split
      next => exact hD.sound _
      next => exact hother.sound _
  stable bs rest h := by
    match bs with
    | [] => exact absurd hnil h
    | b2 :: t =>
      rw [List.cons_append, hcons, hcons]
      rw [hcons] at h
      split at h
      next hp => rw [if_pos hp, if_pos hp]; exact hD.stable (b2 :: t) rest h
      next hp => rw [if_neg hp, if_neg hp]; exact hother.stable (b2 :: t) rest h

theorem readsRow_strMem : ReadsRow 0x01 (decodeStore reg8OfCode .str8) :=
  readsRow_store .str8 reg8Code_of_reg8OfCode

/-- STR: the immediate form and the store. -/
theorem readsRow_str8 : ReadsRow 0x01 decodeStr8 where
  sound bs := by
    match bs with
    | [] => trivial
    | b2 :: rest =>
      simp only [decodeStr8]
      split
      next hb =>
        subst hb
        match rest with
        | [] | [_] | [_, _] => trivial
        | v :: h :: l :: rest =>
          have he : encode (.strImm v (word h l)) = [0x01, 0b00000100, v, h, l] := by
            rw [encode, hi8_word, lo8_word]
          exact soundOn_done rfl he rfl (by decide)
      next => exact readsRow_strMem.sound _
  stable bs rest h := by
    match bs with
    | [] => exact absurd rfl h
    | b2 :: t =>
      simp only [decodeStr8, List.cons_append] at h ⊢
      split at h
      next hb =>
        match t with
        | [] | [_] | [_, _] => exact absurd rfl h
        | _ :: _ :: _ :: _ => rw [if_pos hb, if_pos hb]; rfl
      next hb => rw [if_neg hb, if_neg hb]; exact readsRow_strMem.stable (b2 :: t) rest h

/-- DBNZ Ki,V. -/
theorem readsRow_dbnzReg : ReadsRow 0xC6 decodeDbnzReg where
  sound bs := by
    match bs with
    | [] => trivial
    | b2 :: rest =>
      simp only [decodeDbnzReg]
      split
      next htop =>
        split
        next k hk =>
          match rest with
          | [] => trivial
          | p :: rest =>
            rw [eq_fieldByte htop, reg8Code_of_reg8OfCode hk]
            exact soundOn_done rfl rfl rfl (by decide)
        next => exact soundOn_illegal (by decide)
      next => exact soundOn_illegal (by decide)
  stable bs rest h := by
    match bs with
    | [] => exact absurd rfl h
    | _ :: _ :: _ => rfl
    | [b2] =>
      simp only [decodeDbnzReg, List.cons_append] at h ⊢
      split at h
      next htop =>
        rw [if_pos htop, if_pos htop]
        split at h
        next => exact absurd rfl h
        next => rfl
      next htop => rw [if_neg htop, if_neg htop]

/-- DBNZ <Adr>,V. -/
theorem readsRow_dbnzMem : ReadsRow 0xC7 decodeDbnzMem where
  sound bs := by
    match bs with
    | [] | [_] | [_, _] => trivial
    | p :: h :: l :: rest =>
      have he : encode (.dbnzMem p (word h l)) = [0xC7, p, h, l] := by rw [encode, hi8_word, lo8_word]
      exact soundOn_done rfl he rfl (by decide)
  stable bs rest h := by
    match bs with
    | [] | [_] | [_, _] => exact absurd rfl h
    | _ :: _ :: _ :: _ => rfl

/-- ADC Ai,Ki and CHN. -/
theorem readsRow_adcRegOrChn : ReadsRow 0x44 decodeAdcRegOrChn :=
  readsRow_ite rfl (fun _ _ => rfl)
    (readsRow_regReg (fun d k => .adc d (.reg k)) accCode_of_accOfCode reg8Code_of_reg8OfCode)
    (readsRow_field .chn reg8Code_of_reg8OfCode)

/-- CMP Ki,Kj and SET flag. -/
theorem readsRow_cmpRegOrSetFlag : ReadsRow 0x5E decodeCmpRegOrSetFlag :=
  readsRow_ite rfl (fun _ _ => rfl)
    (readsRow_regReg (fun k x => .cmp8 k (.reg x)) reg8Code_of_reg8OfCode reg8Code_of_reg8OfCode)
    (readsRow_field .setFlag flagCode_of_flagOfCode)

/-- The memory and immediate forms that share their first byte with JSR, JMP and JMC. -/
theorem readsRow_xorMem : ReadsRow 0x14 (decodeRegSrc8 methodsAll accOfCode .xor) :=
  readsRow_regSrc8 methodsAll .xor 0x54 accCode_of_accOfCode

theorem readsRow_cmpMem : ReadsRow 0x1E (decodeRegSrc8 methodsToU reg8OfCode .cmp8) :=
  readsRow_regSrc8 methodsToU .cmp8 0x5E reg8Code_of_reg8OfCode
    (fun _ x _ h => x.memAll_iff_methodsToU.2 h)

theorem readsRow_bitTestMem : ReadsRow 0x1F (decodeRegSrc8 methodsToU reg8OfCode .bit) :=
  readsRow_regSrc8 methodsToU .bit 0x5F reg8Code_of_reg8OfCode
    (fun _ x _ h => x.memAll_iff_methodsToU.2 h)

/-! ### Every row of the first-byte map (rule R99) -/

theorem ReadsRow.row {b1 : Byte} {D : List Byte → Decoded} (hD : ReadsRow b1 D)
    (he : ∀ bs, decodeRest b1 bs = D bs := by intros; rfl) : ReadsRow b1 (decodeRest b1) :=
  funext he ▸ hD

/-- The bytes after a first byte of the map are read by its row. -/
theorem decodeRest_readsRow {b1 : Byte} (h : b1.toNat ∈ firstBytes) : ReadsRow b1 (decodeRest b1) := by
  have hrows : ∀ n ∈ firstBytes, ReadsRow (BitVec.ofNat 8 n) (decodeRest (BitVec.ofNat 8 n)) := by
    simp only [firstBytes, List.forall_mem_cons]
    exact ⟨(readsRow_regSrc8 methodsAll .lda8 0x00 reg8Code_of_reg8OfCode
        (fun _ _ h _ => h) (fun _ _ h => encode_lda8 h 0)).row,
      readsRow_str8.row,
      (readsRow_regSrc8 methodsToU .add8 0x43 accCode_of_accOfCode
        (fun _ x _ h => x.memAll_iff_methodsToU.2 h)).row,
      (readsRow_regSrc8 methodsToU .adc 0x44 accCode_of_accOfCode
        (fun _ x _ h => x.memAll_iff_methodsToU.2 h)).row,
      (readsRow_regSrc8 methodsToU .sub8 0x45 accCode_of_accOfCode
        (fun _ x _ h => x.memAll_iff_methodsToU.2 h)).row,
      (readsRow_regSrc8 methodsAll .sue 0x46 accCode_of_accOfCode).row,
      (readsRow_regSrc8 methodsAll (fun _ => .mul) 0x47 fixedCode_of_fixedOfCode).row,
      (readsRow_oneMem .clr 0x4B).row,
      (readsRow_bitMem .clrBit 0x4E 0xCE).row,
      (readsRow_bitMem .setBit 0x4F 0xCF).row,
      (readsRow_regSrc8 methodsAll .and 0x50 accCode_of_accOfCode).row,
      (readsRow_regSrc8 methodsAll .or 0x51 accCode_of_accOfCode).row,
      (readsRow_jump .jsr readsRow_xorMem).row,
      (readsRow_flagJump .bscAbs (readsRow_illegal _)).row,
      (readsRow_oneMem .inc 0x58).row,
      (readsRow_oneMem .dec 0x59).row,
      (readsRow_oneMem .com 0x5A).row,
      (readsRow_oneMem .neg 0x5B).row,
      (readsRow_jump .jmp readsRow_cmpMem).row,
      (readsRow_flagJump .jmc readsRow_bitTestMem).row,
      (readsRow_regSrc16 methodsAll .lda16 0x20 reg16Code_of_reg16OfCode
        (fun _ _ h _ => h) (fun _ _ h => encode_lda16 h 0x20)).row,
      (readsRow_store .str16 reg16Code_of_reg16OfCode).row,
      (readsRow_regSrc16 methodsToU (fun _ => .add16) 0x63 fixedCode_of_fixedOfCode
        (fun _ x _ h => x.memAll_iff_methodsToU.2 h)).row,
      (readsRow_regSrc16 methodsToU (fun _ => .sub16) 0x65 fixedCode_of_fixedOfCode
        (fun _ x _ h => x.memAll_iff_methodsToU.2 h)).row,
      (readsRow_regSrc8 methodsToZ (fun _ => .div) 0x67 fixedCode_of_fixedOfCode
        (fun _ x _ h => x.memAll_iff_methodsToZ.2 h)).row,
      (readsRow_shiftMem .lsl 0x6F 0).row,
      (readsRow_shiftMem .lsr 0x78 1).row,
      (readsRow_shiftMem .asr 0x79 1).row,
      (readsRow_shiftMem .rol 0x7A 1).row,
      (readsRow_shiftMem .ror 0x7B 1).row,
      (readsRow_regSrc16 methodsToU .cmp16 0x7E reg16Code_of_reg16OfCode
        (fun _ x _ h => x.memAll_iff_methodsToU.2 h)).row,
      (readsRow_regReg .mov8 reg8Code_of_reg8OfCode reg8Code_of_reg8OfCode).row,
      (readsRow_regReg .exc8 reg8Code_of_reg8OfCode reg8Code_of_reg8OfCode).row,
      (readsRow_regReg (fun d k => .add8 d (.reg k)) accCode_of_accOfCode reg8Code_of_reg8OfCode).row,
      readsRow_adcRegOrChn.row,
      (readsRow_regReg (fun d k => .sub8 d (.reg k)) accCode_of_accOfCode reg8Code_of_reg8OfCode).row,
      (readsRow_regReg (fun d k => .sue d (.reg k)) accCode_of_accOfCode reg8Code_of_reg8OfCode).row,
      (readsRow_regReg (fun _ k => .mul (.reg k)) fixedCode_of_fixedOfCode reg8Code_of_reg8OfCode).row,
      (readsRow_oneReg .clr 0x0B).row,
      (readsRow_bitReg .clrBit 0x0E).row,
      (readsRow_bitReg .setBit 0x0F).row,
      (readsRow_regReg (fun d k => .and d (.reg k)) accCode_of_accOfCode reg8Code_of_reg8OfCode).row,
      (readsRow_regReg (fun d k => .or d (.reg k)) accCode_of_accOfCode reg8Code_of_reg8OfCode).row,
      (readsRow_regReg (fun d k => .xor d (.reg k)) accCode_of_accOfCode reg8Code_of_reg8OfCode).row,
      (readsRow_oneReg .inc 0x18).row,
      (readsRow_oneReg .dec 0x19).row,
      (readsRow_oneReg .com 0x1A).row,
      (readsRow_oneReg .neg 0x1B).row,
      (readsRow_field .clrFlag flagCode_of_flagOfCode).row,
      readsRow_cmpRegOrSetFlag.row,
      (readsRow_regReg (fun k x => .bit k (.reg x)) reg8Code_of_reg8OfCode reg8Code_of_reg8OfCode).row,
      (readsRow_regReg .mov16 reg16Code_of_reg16OfCode reg16Code_of_reg16OfCode).row,
      (readsRow_regReg .exc16 reg16Code_of_reg16OfCode reg16Code_of_reg16OfCode).row,
      (readsRow_regReg (fun _ k => .add16 (.reg k)) fixedCode_of_fixedOfCode
        reg16Code_of_reg16OfCode).row,
      (readsRow_regReg (fun _ k => .sub16 (.reg k)) fixedCode_of_fixedOfCode
        reg16Code_of_reg16OfCode).row,
      (readsRow_regReg (fun _ k => .div (.reg k)) fixedCode_of_fixedOfCode reg8Code_of_reg8OfCode).row,
      (readsRow_field .daa accCode_of_accOfCode).row,
      (readsRow_field .psh accCode_of_accOfCode).row,
      (readsRow_field .pul accCode_of_accOfCode).row,
      (readsRow_shiftReg .lsl 0x2F).row,
      (readsRow_field .inc16 reg16Code_of_reg16OfCode).row,
      (readsRow_field .dec16 reg16Code_of_reg16OfCode).row,
      (readsRow_shiftReg .lsr 0x38).row,
      (readsRow_shiftReg .asr 0x39).row,
      (readsRow_shiftReg .rol 0x3A).row,
      (readsRow_shiftReg .ror 0x3B).row,
      (readsRow_regReg (fun k x => .cmp16 k (.reg x)) reg16Code_of_reg16OfCode
        reg16Code_of_reg16OfCode).row,
      (readsRow_rel .bra).row,
      (readsRow_rel .beq).row,
      (readsRow_rel .bne).row,
      (readsRow_rel .bgt).row,
      (readsRow_rel .bge).row,
      (readsRow_rel .bls).row,
      (readsRow_rel .bhi).row,
      (readsRow_rel .bhe).row,
      (readsRow_rel .blo).row,
      (readsRow_rel .bio).row,
      (readsRow_rel .bno).row,
      (readsRow_rel .bic).row,
      (readsRow_rel .bnc).row,
      (readsRow_rel .bih).row,
      (readsRow_rel .bnh).row,
      (readsRow_rel .bsr).row,
      (readsRow_rel (.bscRel .e)).row,
      (readsRow_rel (.bscRel .n)).row,
      (readsRow_rel (.bscRel .s)).row,
      (readsRow_rel (.bscRel .t)).row,
      (readsRow_single .ein).row,
      (readsRow_single .din).row,
      (readsRow_single .nop).row,
      (readsRow_single .int).row,
      readsRow_dbnzReg.row,
      readsRow_dbnzMem.row,
      (readsRow_single .rts).row,
      (readsRow_single .rti).row,
      List.forall_mem_nil _⟩
  have hb : BitVec.ofNat 8 b1.toNat = b1 := by simp
  exact hb ▸ hrows b1.toNat h

/-! ### The decoder -/

theorem decode_soundOn (bs : List Byte) (h : ∀ b ∈ bs.head?, b.toNat ∈ firstBytes) :
    SoundOn bs (decode bs) := by
  match bs with
  | [] => trivial
  | b1 :: bs => exact (decodeRest_readsRow (h b1 rfl)).sound bs

/-- What the decoder reads is well formed, short, and at the front of the bytes. -/
theorem decode_done {bs : List Byte} {i : Instr} {n : Nat} (h : decode bs = .done i n) :
    i.wf = true ∧ n ≤ maxLength ∧ n = (encode i).length ∧ ∃ rest, bs = encode i ++ rest := by
  have hsound : SoundOn bs (decode bs) := by
    refine decode_soundOn bs fun b hb => ?_
    by_contra hnot
    obtain ⟨rest, rfl⟩ := List.head?_eq_some_iff.1 hb
    rw [decode_not_firstByte hnot] at h
    cases h
  rwa [h] at hsound

/-- Settles O2: the row of the first byte is sound. -/
theorem decodedBytesAreTheEncoding : Obligations.DecodedBytesAreTheEncoding := by
  intro bs i n h
  obtain ⟨hwf, -, rfl, rest, rfl⟩ := decode_done h
  exact ⟨hwf, by simp, by simp⟩

/-- Settles O5: each is the encoding of its instruction. -/
theorem exampleBytesDecode : Obligations.ExampleBytesDecode := by
  have hread (i : Instr) (hwf : i.wf = true) : decode (encode i) = .done i (encode i).length := by
    simpa using decodeInvertsEncode i [] hwf
  exact ⟨hread (.add8 .a (.imm 0x25)) rfl, hread (.adc .b (.reg .c)) rfl,
    hread (.lda8 .a (.mem (.incremental 0x05 0x02))) rfl, hread (.and .a (.imm 0x0F)) rfl,
    hread (.strImm 0x55 0x1234) rfl, hread (.clrBit 7 (.reg .a)) rfl,
    hread (.asr (.mem (.direct 0x2000))) rfl, hread (.cmp16 .sk (.imm 0x2010)) rfl,
    hread (.bscAbs .t 0x3000) rfl, hread (.dbnzMem 0xFC 0x0080) rfl, hread .rti rfl⟩

/-- The decoder answers `more` on the bytes of an instruction until they are all there. -/
theorem decode_take_more {bs : List Byte} {i : Instr} {n k : Nat} (h : decode bs = .done i n)
    (hk : k < n) : decode (bs.take k) = .more := by
  obtain ⟨-, -, hn, rest, hbs⟩ := decode_done h
  match k, bs with
  | 0, _ => rfl
  | k + 1, [] => rfl
  | k + 1, b1 :: bs =>
    have hfirst : b1.toNat ∈ firstBytes := by
      by_contra hnot
      rw [decode_not_firstByte hnot] at h
      cases h
    by_contra hmore
    have hstable : decode (b1 :: bs) = decode ((b1 :: bs).take (k + 1)) := by
      have hs := (decodeRest_readsRow hfirst).stable (bs.take k) (bs.drop k) hmore
      rwa [List.take_append_drop] at hs
    obtain ⟨-, hle, -⟩ := decodedBytesAreTheEncoding _ i n (hstable ▸ h)
    rw [List.length_take] at hle
    omega

theorem decode_take_all {bs : List Byte} {i : Instr} {n : Nat} (h : decode bs = .done i n) :
    decode (bs.take n) = .done i n := by
  obtain ⟨hwf, -, rfl, rest, rfl⟩ := decode_done h
  simpa using decodeInvertsEncode i [] hwf

/-! ### The fetch (rule R101) -/

/-- With `k` bytes fetched and the rest still to come, the fetch ends with the instruction. -/
theorem Machine.State.fetchFrom_of_decode {s : State} {bs : List Byte} {i : Instr} {n : Nat}
    (hat : s.atPs bs) (h : decode bs = .done i n) (fuel k : Nat) (hk : k < n) (hfuel : n ≤ k + fuel) :
    s.fetchFrom fuel (bs.take k) = .ok (i, n) := by
  obtain ⟨-, hn, -⟩ := decodedBytesAreTheEncoding bs i n h
  induction fuel generalizing k with
  | zero => omega
  | succ fuel ih =>
    have hlen : (bs.take k).length = k := by rw [List.length_take]; omega
    have hread := hat k (by omega)
    have htake : bs.take k ++ [bs[k]] = bs.take (k + 1) := List.take_concat_get' bs k (by omega)
    simp only [State.fetchFrom, hlen, hread, htake]
    by_cases hlast : k + 1 = n
    · rw [hlast, decode_take_all h]
    · rw [decode_take_more h (by omega : k + 1 < n)]
      exact ih (k + 1) (by omega) (by omega)

theorem Machine.State.fetch_of_decode {s : State} {bs : List Byte} {i : Instr} {n : Nat}
    (hat : s.atPs bs) (h : decode bs = .done i n) : s.fetch = .ok (i, n) := by
  obtain ⟨hwf, hmax, hn, -⟩ := decode_done h
  have hpos : 0 < n := by
    rcases Nat.eq_zero_or_pos n with rfl | hpos
    · have hmore := decode_take_all h
      rw [List.take_zero] at hmore
      cases hmore
    · exact hpos
  exact State.fetchFrom_of_decode hat h maxLength 0 hpos (by omega)

/-- The boundary poll moves neither PS nor a byte. -/
theorem Machine.State.atPs_pollIrq {s : State} {bs : List Byte} (h : s.atPs bs) :
    s.pollIrq.atPs bs := fun k hk => by
  rw [State.read8_pollIrq, State.pollIrq_ps, h k hk]

/-- Settles O3: the bytes are fetched one by one until they are the instruction. -/
theorem stepRunsDecodedInstruction : Obligations.StepRunsDecodedInstruction :=
  fun _ _ _ _ hat hdec _ hirq =>
    step_of_fetch hirq (State.fetch_of_decode (State.atPs_pollIrq hat) hdec)

/-- Settles O4: the encoding at PS decodes to the instruction (`decodeInvertsEncode`). -/
theorem stepRunsEncodedInstruction : Obligations.StepRunsEncodedInstruction := by
  intro s i hwf hat hirq
  have hdec : decode (encode i) = .done i (encode i).length := by
    simpa using decodeInvertsEncode i [] hwf
  exact stepRunsDecodedInstruction s _ i _ hat hdec hwf hirq

/-! ### The first-byte map (rules R99, R110) -/

/-- A first byte that begins no row ends the fetch. -/
theorem Machine.State.fetch_of_not_firstByte {s : State} {b : Byte} (hread : s.read8 s.ps = .ok b)
    (h : b.toNat ∉ firstBytes) : s.fetch = .error (.illegalInstruction s.ps [b]) := by
  have hread0 : s.read8 (s.ps + BitVec.ofNat 16 ([] : List Byte).length) = .ok b := by
    rw [List.length_nil, BitVec.add_zero, hread]
  simp only [State.fetch, maxLength, State.fetchFrom, hread0, List.nil_append, decode_not_firstByte h]

theorem mem_iff_toNat_mem_firstBytes (b : Byte) :
    b ∈ firstBytes.map (BitVec.ofNat 8) ↔ b.toNat ∈ firstBytes := by
  have hlt : ∀ n ∈ firstBytes, n < 256 := by decide
  rw [List.mem_map]
  constructor
  · rintro ⟨n, hn, rfl⟩
    rwa [BitVec.toNat_ofNat, Nat.mod_eq_of_lt (hlt n hn)]
  · exact fun h => ⟨b.toNat, h, by simp⟩

/-- Settles O8: the listed bytes are those of `firstBytes`; their rows never refuse the first byte, and
`decode_not_firstByte` refuses every other. -/
theorem firstByteMap : Obligations.FirstByteMap := by
  intro s b hirq hread
  split
  next hb =>
    intro rest hdec
    have hsound := decode_soundOn (b :: rest) fun c hc => by
      cases hc
      exact (mem_iff_toNat_mem_firstBytes b).1 hb
    rw [hdec] at hsound
    exact hsound rfl
  next hb =>
    have hnot : b.toNat ∉ firstBytes := fun h => hb ((mem_iff_toNat_mem_firstBytes b).2 h)
    have hfetch : s.pollIrq.fetch = .error (.illegalInstruction s.ps [b]) :=
      State.fetch_of_not_firstByte ((State.read8_pollIrq s s.ps).trans hread) hnot
    simp only [step, hirq, hfetch, Bool.false_eq_true, if_false]

end Sys2Proof
end


section
/-! What an instruction may change: every operation stays within its footprint, proved once over the
updates that the meanings are made of; the frame statements and the invariants of a step are its parts. -/

namespace Sys2Proof

open Machine

/-! ### The shape of each instruction with an operand (rules R133 to R139, R174, R201 to R203, R222 to
R227, R291 to R295, R311 to R313) -/

section
variable (d : Acc) (k : Reg8) (kk : Reg16) (n : BitVec 3) (x : Src8) (xx : Src16) (o : Operand8)
  (s : State)

theorem exec_add8 : exec (.add8 d x) s = withSrc8 x s fun v s => s.accAdd d v false := rfl
theorem exec_adc : exec (.adc d x) s = withSrc8 x s fun v s => s.accAdd d v s.dk.e := rfl
theorem exec_sub8 : exec (.sub8 d x) s = withSrc8 x s fun v s => s.accSub d v false := rfl
theorem exec_sue : exec (.sue d x) s = withSrc8 x s fun v s => s.accSub d v s.dk.e := rfl
theorem exec_add16 : exec (.add16 xx) s = withSrc16 xx s fun v s =>
    (s.setReg16 .ab (add16 (s.reg16 .ab) v)).putArith16 (s.dk.afterAdd16 (s.reg16 .ab) v) := rfl
theorem exec_sub16 : exec (.sub16 xx) s = withSrc16 xx s fun v s =>
    (s.setReg16 .ab (sub16 (s.reg16 .ab) v)).putArith16 (s.dk.afterSub16 (s.reg16 .ab) v) := rfl
theorem exec_mul : exec (.mul x) s =
    withSrc8 x s fun v s => (s.setReg16 .ab (mulResult s.a v)).drawAll := rfl
theorem exec_lda8 : exec (.lda8 k x) s = withSrc8 x s fun v s => s.setReg8 k v := rfl
theorem exec_and : exec (.and d x) s =
    withSrc8 x s fun v s => s.accLogic d (s.reg8 (accReg d) &&& v) := rfl
theorem exec_or : exec (.or d x) s =
    withSrc8 x s fun v s => s.accLogic d (s.reg8 (accReg d) ||| v) := rfl
theorem exec_xor : exec (.xor d x) s =
    withSrc8 x s fun v s => s.accLogic d (s.reg8 (accReg d) ^^^ v) := rfl
theorem exec_cmp8 : exec (.cmp8 k x) s =
    withSrc8 x s fun v s => s.putStatus (s.dk.afterSub8 (s.reg8 k) v false) := rfl
theorem exec_cmp16 : exec (.cmp16 kk xx) s = withSrc16 xx s fun v s =>
    (s.putStatus (s.dk.afterSub16 (s.reg16 kk) v)).drawFlag .y := rfl
theorem exec_bit : exec (.bit k x) s = withSrc8 x s fun v s =>
    (((s.putStatus (s.dk.sn8 (s.reg8 k &&& v))).drawFlag .t).drawFlag .y).drawFlag .e := rfl
theorem exec_inc : exec (.inc o) s =
    rmw o s (fun v => v + 1) fun v u => u.putStatus (u.dk.afterInc8 v) := rfl
theorem exec_dec : exec (.dec o) s =
    rmw o s (fun v => v - 1) fun v u => u.putStatus (u.dk.afterDec8 v) := rfl
theorem exec_com : exec (.com o) s =
    rmw o s (fun v => ~~~v) fun v u => u.putStatus (u.dk.sn8 (~~~v)) := rfl
theorem exec_neg : exec (.neg o) s =
    rmw o s (fun v => 0 - v) fun v u => u.putStatus (u.dk.sn8 (0 - v)) := rfl
theorem exec_clrBit : exec (.clrBit n o) s = rmw o s (fun v => v &&& ~~~bitMask n) fun v u =>
    u.putStatus (u.dk.sn8 (v &&& ~~~bitMask n)) := rfl
theorem exec_setBit : exec (.setBit n o) s = rmw o s (fun v => v ||| bitMask n) fun v u =>
    u.putStatus (u.dk.sn8 (v ||| bitMask n)) := rfl
theorem exec_lsl : exec (.lsl o) s = rmw o s (fun v => shiftLeft v false) fun v u =>
    u.putShift v.msb (shiftLeft v false) := rfl
theorem exec_lsr : exec (.lsr o) s = rmw o s (fun v => shiftRight v false) fun v u =>
    u.putShift (v.getLsbD 0) (shiftRight v false) := rfl
theorem exec_asr : exec (.asr o) s = rmw o s (fun v => shiftRight v v.msb) fun v u =>
    u.putShift (v.getLsbD 0) (shiftRight v v.msb) := rfl
theorem exec_rol : exec (.rol o) s = rmw o s (fun v => shiftLeft v s.dk.e) fun v u =>
    u.putShift v.msb (shiftLeft v s.dk.e) := rfl
theorem exec_ror : exec (.ror o) s = rmw o s (fun v => shiftRight v s.dk.e) fun v u =>
    u.putShift (v.getLsbD 0) (shiftRight v s.dk.e) := rfl

end

/-! ### The next state of the instructions that are not of a shared shape -/

theorem finish_next_iff {r : Except Fault State} {t : State} : finish r = .next t ↔ r = .ok t := by
  cases r <;> simp [finish]

theorem exec_div_next_iff (x : Src8) (s t : State) :
    exec (.div x) s = .next t ↔ ∃ v, s.src8 x = .ok v ∧ v ≠ 0 ∧
      t = ((s.setReg16 .ab (divResult (s.reg16 .ab) v)).drawAll).post8 x := by
  simp only [exec, execDiv]
  cases s.src8 x with
  | error e => simp
  | ok v =>
    simp only [divSigned, divKeepsRemainder, Bool.or_self, Bool.false_eq_true, if_false,
      Except.ok.injEq, exists_eq_left']
    split
    next hv => simp [hv]
    next hv => simp only [Host.Outcome.next.injEq, ne_eq, hv, not_false_eq_true, true_and, eq_comm]

theorem exec_lda16_next_iff (k : Reg16) (x : Src16) (s t : State) :
    exec (.lda16 k x) s = .next t ↔
      loadsAndStepsSk k x = false ∧ withSrc16 x s (fun v s => s.load16 k v) = .next t := by
  simp only [exec, execLda16]
  cases loadsAndStepsSk k x <;> simp

theorem exec_pul_next_iff (d : Acc) (s t : State) :
    exec (.pul d) s = .next t ↔ ∃ v, s.read8 s.yg = .ok v ∧
      t = ((s.setReg16 .yg (s.yg + 1)).setReg8 (accReg d) v).putStatus (s.dk.sn8 v) := by
  simp only [exec, execPul, State.pull8_eq]
  cases s.read8 s.yg <;> simp [Except.map, eq_comm]

theorem exec_rts_next_iff (s t : State) :
    exec .rts s = .next t ↔ ∃ w, s.read16 s.yg = .ok w ∧ t = (s.setReg16 .yg (s.yg + 2)).jump w := by
  simp only [exec, execRts, State.pull16_eq]
  cases s.read16 s.yg <;> simp [Except.map, eq_comm]

theorem exec_rti_next_iff (s t : State) :
    exec .rti s = .next t ↔ ∃ v w, s.read8 s.yg = .ok v ∧ s.read16 (s.yg + 1) = .ok w ∧
      t = ((s.putStatus (dkOfByte v)).setReg16 .yg (s.yg + 3)).jump w :=
  finish_next_iff.trans (State.trapReturn_ok_iff s t)

theorem exec_int (s : State) : exec .int s = .next (s.trapped s.ps Config.intEntry) :=
  finish_next_iff.2 (State.trapEntry_eq s _ _)

theorem exec_bsr (p : Byte) (s : State) : exec (.bsr p) s = .next (s.called (s.relTarget p)) :=
  State.call_eq s _

theorem exec_jsr (adr : Word) (s : State) : exec (.jsr adr) s = .next (s.called adr) :=
  State.call_eq s adr

theorem exec_bscRel (f : Flag) (p : Byte) (s : State) :
    exec (.bscRel f p) s = .next (if s.flag f = true then s.called (s.relTarget p) else s) := by
  simp only [exec, execBscRel, State.call_eq]
  split <;> rfl

theorem exec_bscAbs (f : Flag) (adr : Word) (s : State) :
    exec (.bscAbs f adr) s = .next (if s.flag f = true then s.called adr else s) := by
  simp only [exec, execBscAbs, State.call_eq]
  split <;> rfl

theorem exec_dbnzMem_next_iff (p : Byte) (adr : Word) (s t : State) :
    exec (.dbnzMem p adr) s = .next t ↔ ∃ v, s.read8 adr = .ok v ∧
      t = (s.poke adr (v - 1)).branchIf (v - 1 != 0) p := by
  simp only [exec, execDbnzMem, State.write8_eq]
  cases s.read8 adr <;> simp [eq_comm]

/-! ### A state within a footprint of another -/

/-- `t` differs from `s` only where `fp` allows; memory stays canonical and no byte loses its value. -/
structure Within (fp : Footprint) (s t : State) : Prop where
  reg8 : ∀ k ∉ fp.regs, t.reg8 k = s.reg8 k
  sk : fp.sk = false → t.sk = s.sk
  yg : fp.yg = false → t.yg = s.yg
  flag : ∀ f ∉ fp.flags, t.flag f = s.flag f
  k : fp.k = false → t.dk.k = s.dk.k
  ps : fp.ps = false → t.ps = s.ps
  irqPending : t.irqPending = s.irqPending
  boundary : t.boundary = s.boundary
  bytes : ∀ a ∉ fp.stores, t.read8 a = s.read8 a
  canonical : s.mem.wf = true → t.mem.wf = true
  readable : s.keepsReadable t

theorem Within.refl (fp : Footprint) (s : State) : Within fp s s where
  reg8 _ _ := rfl
  sk _ := rfl
  yg _ := rfl
  flag _ _ := rfl
  k _ := rfl
  ps _ := rfl
  irqPending := rfl
  boundary := rfl
  bytes _ _ := rfl
  canonical h := h
  readable _ h := h

/-! ### Each update of the state that the footprint allows -/

section
variable {fp : Footprint} {s u : State} (h : Within fp s u)
include h

theorem Within.setReg8 {k : Reg8} (hk : k ∈ fp.regs) (v : Byte) : Within fp s (u.setReg8 k v) := by
  have hreg : ∀ j ∉ fp.regs, (u.setReg8 k v).reg8 j = s.reg8 j := fun j hj => by
    rw [State.reg8_setReg8, if_neg (fun hjk : j = k => hj (hjk ▸ hk)), h.reg8 j hj]
  cases k <;> exact { h with reg8 := hreg }

theorem Within.setReg16 {k : Reg16} (hregs : ∀ j ∈ halves k, j ∈ fp.regs)
    (hsk : k = .sk → fp.sk = true) (hyg : k = .yg → fp.yg = true) (v : Word) :
    Within fp s (u.setReg16 k v) := by
  cases k with
  | ab =>
    exact (h.setReg8 (hregs .a (by decide)) (hi8 v)).setReg8 (k := .b) (hregs .b (by decide)) (lo8 v)
  | cd =>
    exact (h.setReg8 (hregs .c (by decide)) (hi8 v)).setReg8 (k := .d) (hregs .d (by decide)) (lo8 v)
  | sk => exact { h with sk := fun hf => by simp [hsk rfl] at hf }
  | yg => exact { h with yg := fun hf => by simp [hyg rfl] at hf }

theorem Within.jump (hps : fp.ps = true) (w : Word) : Within fp s (u.jump w) :=
  { h with ps := fun hf => by simp [hps] at hf }

theorem Within.putK (hk : fp.k = true) (b : Bool) : Within fp s (u.putK b) :=
  { h with
    k := fun hf => by simp [hk] at hf
    flag := fun f hf => (by cases f <;> rfl : (u.putK b).flag f = u.flag f).trans (h.flag f hf) }

/-- DK as a whole, where the flags that the footprint does not name are those of `u`. -/
theorem Within.putStatus {dk : Status} (hflag : ∀ f ∉ fp.flags, dk.get f = u.dk.get f)
    (hk : fp.k = false → dk.k = u.dk.k) : Within fp s (u.putStatus dk) :=
  { h with
    flag := fun f hf => (hflag f hf).trans (h.flag f hf)
    k := fun hf => (hk hf).trans (h.k hf) }

theorem Within.putFlag {f : Flag} (hf : f ∈ fp.flags) (b : Bool) : Within fp s (u.putFlag f b) :=
  h.putStatus
    (fun g hg => by rw [Status.get_put, if_neg (fun hgf : g = f => hg (hgf ▸ hf))])
    (fun _ => Status.put_k _ _ _)

theorem Within.drawFlag {f : Flag} (hf : f ∈ fp.flags) : Within fp s (u.drawFlag f) :=
  { h.putFlag hf (Config.unspecifiedBit u.draws) with }

theorem Within.drawAll (hf : ∀ f, f ∈ fp.flags) : Within fp s u.drawAll :=
  ((((h.drawFlag (hf .t)).drawFlag (hf .s)).drawFlag (hf .n)).drawFlag (hf .y)).drawFlag (hf .e)

theorem Within.poke {a : Word} (ha : a ∈ fp.stores) (v : Byte) : Within fp s (u.poke a v) :=
  { h with
    bytes := fun b hb => by
      rw [State.read8_poke, if_neg (fun hba : b = a => hb (hba ▸ ha)), h.bytes b hb]
    canonical := fun hwf => u.poke_wf a v (h.canonical hwf)
    readable := fun b hb => by
      rw [State.read8_poke]
      split
      next => exact ⟨v, rfl⟩
      next => exact h.readable b hb }

theorem Within.stepSk {m : Mem} (hm : Mem.stepsSk m = true → fp.sk = true) :
    Within fp s (u.stepSk m) := by
  cases m with
  | incremental | decremental => exact { h with sk := fun hf => by simp [hm rfl] at hf }
  | _ => exact h

theorem Within.post8 {x : Src8} (hx : Src8.stepsSk x = true → fp.sk = true) :
    Within fp s (u.post8 x) := by
  cases x with
  | mem m => exact h.stepSk hx
  | _ => exact h

theorem Within.post16 {x : Src16} (hx : Src16.stepsSk x = true → fp.sk = true) :
    Within fp s (u.post16 x) := by
  cases x with
  | mem m => exact h.stepSk hx
  | _ => exact h

/-- A push moves YG and stores. -/
theorem Within.setYg (hyg : fp.yg = true) (v : Word) : Within fp s (u.setReg16 .yg v) :=
  h.setReg16 (by simp [halves]) (by simp) (fun _ => hyg) v

end

/-! ### Flags that a computation keeps (rules R30, R131, R132, R222, R223) -/

theorem Flag.mem_resultFlags (f : Flag) : f ∈ resultFlags := by
  cases f <;> decide

theorem Status.get_sn8 {dk : Status} {f : Flag} (r : Byte) (hf : f ∉ [Flag.s, .n]) :
    (dk.sn8 r).get f = dk.get f := by
  cases f <;> simp [Status.sn8] at hf ⊢

theorem Status.get_sn16 {dk : Status} {f : Flag} (r : Word) (hf : f ∉ [Flag.s, .n]) :
    (dk.sn16 r).get f = dk.get f := by
  cases f <;> simp [Status.sn16] at hf ⊢

/-- The flags that INC and DEC write. -/
def incFlags : List Flag := [.t, .s, .n, .e]

theorem Status.get_of_incFlags {dk dk' : Status} (hy : dk'.y = dk.y) {f : Flag} (hf : f ∉ incFlags) :
    dk'.get f = dk.get f := by
  cases f <;> simp [incFlags] at hf ⊢
  exact hy

/-! ### The shapes of a meaning (rules R71, R130, R220, R348) -/

section
variable {fp : Footprint} {s t : State}

theorem within_next {u : State} (hu : Within fp s u)
    (h : (.next u : Host.Outcome State Fault Refusal) = .next t) : Within fp s t := by
  cases h
  exact hu

theorem within_withSrc8 {x : Src8} {f : Byte → State → State} (h : withSrc8 x s f = .next t)
    (hx : Src8.stepsSk x = true → fp.sk = true) (hf : ∀ v, Within fp s (f v s)) : Within fp s t := by
  obtain ⟨v, -, rfl⟩ := (withSrc8_next_iff x s t f).1 h
  exact (hf v).post8 hx

theorem within_withSrc16 {x : Src16} {f : Word → State → State} (h : withSrc16 x s f = .next t)
    (hx : Src16.stepsSk x = true → fp.sk = true) (hf : ∀ v, Within fp s (f v s)) : Within fp s t := by
  obtain ⟨v, -, rfl⟩ := (withSrc16_next_iff x s t f).1 h
  exact (hf v).post16 hx

@[simp] theorem footOperand_flags (x : Operand8) (s : State) (flags : List Flag) :
    (footOperand x s flags).flags = flags := by
  cases x <;> rfl

/-- A read-modify-write stays within its operand, and within `flags` if its flag update does. -/
theorem within_rmw {x : Operand8} {f : Byte → Byte} {g : Byte → State → State} {flags : List Flag}
    (h : rmw x s f g = .next t)
    (hg : ∀ v u, Within (footOperand x s flags) s u → Within (footOperand x s flags) s (g v u)) :
    Within (footOperand x s flags) s t := by
  cases x with
  | reg k => exact within_next (hg _ _ ((Within.refl _ s).setReg8 (List.mem_singleton.2 rfl) _)) h
  | mem m =>
    obtain ⟨v, -, rfl⟩ := (rmw_mem_next_iff m s t f g).1 h
    exact (hg _ _ ((Within.refl _ s).poke (List.mem_singleton.2 rfl) _)).stepSk id

/-- A read-modify-write that writes DK as a whole and keeps K. -/
theorem within_rmw_putStatus {x : Operand8} {f : Byte → Byte} {dk : Byte → Status → Status}
    {flags : List Flag} (h : rmw x s f (fun v u => u.putStatus (dk v u.dk)) = .next t)
    (hflag : ∀ v d, ∀ f ∉ flags, (dk v d).get f = d.get f) (hk : ∀ v d, (dk v d).k = d.k) :
    Within (footOperand x s flags) s t :=
  within_rmw h fun v u hu => hu.putStatus (by simpa using hflag v u.dk) fun _ => hk v u.dk

/-- A shift or rotate: S, N and E are written, T and Y drawn. -/
theorem within_rmw_putShift {x : Operand8} {f r : Byte → Byte} {out : Byte → Bool}
    (h : rmw x s f (fun v u => u.putShift (out v) (r v)) = .next t) :
    Within (footOperand x s resultFlags) s t := by
  have hall : ∀ f, f ∈ (footOperand x s resultFlags).flags := fun f => by
    rw [footOperand_flags]
    exact f.mem_resultFlags
  exact within_rmw h fun v u hu =>
    ((hu.putStatus (dk := { u.dk.sn8 (r v) with e := out v }) (fun f hf => absurd (hall f) hf)
      fun _ => rfl).drawFlag (hall .t)).drawFlag (hall .y)

theorem within_called (s : State) (target : Word) : Within (footCall s) s (s.called target) :=
  ((((Within.refl (footCall s) s).setYg rfl _).poke (by simp [footCall]) _).poke
    (by simp [footCall]) _).jump rfl _

theorem within_calledIf (f : Flag) (s : State) (target : Word) :
    Within (if s.flag f = true then footCall s else {}) s
      (if s.flag f = true then s.called target else s) := by
  split
  next => exact within_called s target
  next => exact Within.refl _ s

/-- An accumulator and all five flags. -/
theorem within_acc_putStatus {d : Acc} {x : Src8} {v : Byte} {dk : Status} (hk : dk.k = s.dk.k) :
    Within (footAcc d x resultFlags) s ((s.setReg8 (accReg d) v).putStatus dk) :=
  ((Within.refl _ s).setReg8 (List.mem_singleton.2 rfl) v).putStatus
    (fun f hf => absurd f.mem_resultFlags hf) fun _ => by simpa using hk

theorem within_accAdd (d : Acc) (x : Src8) (v : Byte) (c : Bool) :
    Within (footAcc d x resultFlags) s (s.accAdd d v c) :=
  within_acc_putStatus (dk := s.dk.afterAdd8 (s.reg8 (accReg d)) v c) rfl

theorem within_accSub (d : Acc) (x : Src8) (v : Byte) (c : Bool) :
    Within (footAcc d x resultFlags) s (s.accSub d v c) :=
  within_acc_putStatus (dk := s.dk.afterSub8 (s.reg8 (accReg d)) v c) rfl

/-- An accumulator with S and N of its value. -/
theorem within_accLogic (d : Acc) (x : Src8) (r : Byte) :
    Within (footAcc d x [.s, .n]) s (s.accLogic d r) :=
  ((Within.refl _ s).setReg8 (List.mem_singleton.2 rfl) r).putStatus
    (fun _ hf => (Status.get_sn8 r hf).trans (by simp)) fun _ => by simp [Status.sn8]

/-- AB from a 16-bit source, with flags computed but for Y. -/
theorem within_ab_putArith16 {x : Src16} {v : Word} {dk : Status} (hk : dk.k = s.dk.k) :
    Within { regs := [.a, .b], sk := Src16.stepsSk x, flags := resultFlags } s
      ((s.setReg16 .ab v).putArith16 dk) := by
  rw [State.putArith16_eq]
  exact (((Within.refl _ s).setReg16 (by simp [halves]) (by simp) (by simp) v).putStatus
    (fun f hf => absurd f.mem_resultFlags hf) fun _ => by simpa using hk).drawFlag
    (Flag.mem_resultFlags .y)

/-- AB from an 8-bit source, with every flag drawn. -/
theorem within_ab_drawAll {x : Src8} {v : Word} :
    Within { regs := [.a, .b], sk := Src8.stepsSk x, flags := resultFlags } s
      (s.setReg16 .ab v).drawAll :=
  ((Within.refl _ s).setReg16 (by simp [halves]) (by simp) (by simp) v).drawAll Flag.mem_resultFlags

/-- A 16-bit register and DK. -/
theorem within_reg16_putStatus {k : Reg16} {v : Word} {dk : Status} {flags : List Flag}
    (hflag : ∀ f ∉ flags, dk.get f = s.dk.get f) (hk : dk.k = s.dk.k) :
    Within (footReg16 k flags) s ((s.setReg16 k v).putStatus dk) :=
  ((Within.refl _ s).setReg16 (fun _ hj => hj) (fun hsk => beq_iff_eq.2 hsk)
    (fun hyg => beq_iff_eq.2 hyg) v).putStatus (by simpa [footReg16] using hflag)
    fun _ => by simpa using hk

/-- A compare writes no register. -/
theorem within_flags_putStatus {sk : Bool} {dk : Status} (hk : dk.k = s.dk.k) :
    Within { sk := sk, flags := resultFlags } s (s.putStatus dk) :=
  (Within.refl _ s).putStatus (fun f hf => absurd f.mem_resultFlags hf) fun _ => hk

/-- Control only. -/
theorem within_branchIf {u : State} (c : Bool) (p : Byte) (hu : Within fp s u) (hps : fp.ps = true) :
    Within fp s (u.branchIf c p) := by
  rw [State.branchIf_eq]
  exact hu.jump hps _

end

theorem within_trapped (s : State) (ret entry : Word) :
    Within (footprint .int s) s (s.trapped ret entry) :=
  ((((((Within.refl (footprint .int s) s).setYg rfl _).poke (by simp [footprint]) _).poke
    (by simp [footprint]) _).poke (by simp [footprint]) _).putK rfl _).jump rfl _

/-! ### Every instruction -/

/-- An instruction that answers a next state stays within its footprint. -/
theorem exec_within {i : Instr} {s t : State} (h : exec i s = .next t) : Within (footprint i s) s t := by
  have hrefl : ∀ fp, Within fp s s := fun fp => Within.refl fp s
  cases i with
  | add8 d x =>
    rw [exec_add8] at h
    exact within_withSrc8 h id fun _ => within_accAdd d x _ _
  | adc d x =>
    rw [exec_adc] at h
    exact within_withSrc8 h id fun _ => within_accAdd d x _ _
  | sub8 d x =>
    rw [exec_sub8] at h
    exact within_withSrc8 h id fun _ => within_accSub d x _ _
  | sue d x =>
    rw [exec_sue] at h
    exact within_withSrc8 h id fun _ => within_accSub d x _ _
  | add16 x =>
    rw [exec_add16] at h
    exact within_withSrc16 h id fun _ => within_ab_putArith16 (by rfl)
  | sub16 x =>
    rw [exec_sub16] at h
    exact within_withSrc16 h id fun _ => within_ab_putArith16 (by rfl)
  | mul x =>
    rw [exec_mul] at h
    exact within_withSrc8 h id fun _ => within_ab_drawAll
  | div x =>
    obtain ⟨v, -, -, rfl⟩ := (exec_div_next_iff x s t).1 h
    exact within_ab_drawAll.post8 id
  | mov8 ki kj => exact within_next ((hrefl _).setReg8 (List.mem_singleton.2 rfl) _) h
  | exc8 ki kj =>
    exact within_next (((hrefl _).setReg8 (k := ki) (by simp [footprint]) _).setReg8 (k := kj)
      (by simp [footprint]) _) h
  | chn k => exact within_next ((hrefl _).setReg8 (List.mem_singleton.2 rfl) _) h
  | lda8 k x =>
    rw [exec_lda8] at h
    exact within_withSrc8 h id fun _ => (hrefl _).setReg8 (List.mem_singleton.2 rfl) _
  | str8 k m => exact within_next (((hrefl _).poke (List.mem_singleton.2 rfl) _).stepSk id) h
  | strImm v adr => exact within_next ((hrefl _).poke (List.mem_singleton.2 rfl) _) h
  | mov16 kii kjj =>
    exact within_next (within_reg16_putStatus (fun _ => Status.get_sn16 _) (by rfl)) h
  | exc16 kii kjj =>
    refine within_next (((hrefl _).setReg16 (k := kii) ?_ ?_ ?_ _).setReg16 (k := kjj) ?_ ?_ ?_ _) h <;>
      simp +contextual [footprint]
  | lda16 k x =>
    obtain ⟨-, hload⟩ := (exec_lda16_next_iff k x s t).1 h
    refine within_withSrc16 hload (fun hx => by simp [footprint, hx]) fun v => ?_
    exact ((hrefl _).setReg16 (fun _ hj => hj) (fun hsk => by simp [footprint, hsk])
      (fun hyg => by simp [footprint, footReg16, hyg]) v).putStatus
      (fun _ hf => (Status.get_sn16 _ hf).trans (by simp)) fun _ => by simp [Status.sn16]
  | str16 k m =>
    exact within_next ((((hrefl _).poke (a := s.ea m) (by simp [footprint]) _).poke (a := s.ea m + 1)
      (by simp [footprint]) _).stepSk id) h
  | and d x =>
    rw [exec_and] at h
    exact within_withSrc8 h id fun _ => within_accLogic d x _
  | or d x =>
    rw [exec_or] at h
    exact within_withSrc8 h id fun _ => within_accLogic d x _
  | xor d x =>
    rw [exec_xor] at h
    exact within_withSrc8 h id fun _ => within_accLogic d x _
  | clr x =>
    cases x with
    | reg k =>
      exact within_next (((hrefl _).setReg8 (List.mem_singleton.2 rfl) 0).putStatus
        (fun f hf => absurd f.mem_resultFlags hf) fun _ => by simp [Status.afterClr]) h
    | mem m =>
      exact within_next ((((hrefl _).poke (List.mem_singleton.2 rfl) 0).putStatus
        (fun f hf => absurd f.mem_resultFlags hf) fun _ => by simp [Status.afterClr]).stepSk id) h
  | inc x =>
    rw [exec_inc] at h
    exact within_rmw_putStatus (dk := fun v d => d.afterInc8 v) h
      (fun _ _ _ => Status.get_of_incFlags (by rfl)) fun _ _ => by rfl
  | dec x =>
    rw [exec_dec] at h
    exact within_rmw_putStatus (dk := fun v d => d.afterDec8 v) h
      (fun _ _ _ => Status.get_of_incFlags (by rfl)) fun _ _ => by rfl
  | com x =>
    rw [exec_com] at h
    exact within_rmw_putStatus h (fun _ _ _ => Status.get_sn8 _) fun _ _ => by rfl
  | neg x =>
    rw [exec_neg] at h
    exact within_rmw_putStatus h (fun _ _ _ => Status.get_sn8 _) fun _ _ => by rfl
  | clrBit n x =>
    rw [exec_clrBit] at h
    exact within_rmw_putStatus h (fun _ _ _ => Status.get_sn8 _) fun _ _ => by rfl
  | setBit n x =>
    rw [exec_setBit] at h
    exact within_rmw_putStatus h (fun _ _ _ => Status.get_sn8 _) fun _ _ => by rfl
  | clrFlag f | setFlag f => exact within_next ((hrefl _).putFlag (List.mem_singleton.2 rfl) _) h
  | inc16 k =>
    exact within_next (within_reg16_putStatus (fun _ => Status.get_of_incFlags (by rfl)) (by rfl)) h
  | dec16 k =>
    exact within_next (within_reg16_putStatus (fun _ => Status.get_of_incFlags (by rfl)) (by rfl)) h
  | daa d =>
    refine within_next (((hrefl _).setReg8 (List.mem_singleton.2 rfl) _).putStatus (fun f hf => ?_)
      fun _ => by simp) h
    cases f <;> simp [footprint] at hf ⊢
  | psh k => exact within_next (((hrefl _).setYg rfl _).poke (List.mem_singleton.2 rfl) _) h
  | pul d =>
    obtain ⟨v, -, rfl⟩ := (exec_pul_next_iff d s t).1 h
    exact (((hrefl _).setYg rfl _).setReg8 (List.mem_singleton.2 rfl) v).putStatus
      (fun _ hf => (Status.get_sn8 _ hf).trans (by simp)) fun _ => by simp [Status.sn8]
  | ein | din => exact within_next ((hrefl _).putK rfl _) h
  | nop => exact within_next (hrefl _) h
  | rts =>
    obtain ⟨w, -, rfl⟩ := (exec_rts_next_iff s t).1 h
    exact ((hrefl _).setYg rfl _).jump rfl w
  | rti =>
    obtain ⟨v, w, -, -, rfl⟩ := (exec_rti_next_iff s t).1 h
    exact (((hrefl _).putStatus (fun f hf => absurd f.mem_resultFlags hf) (by simp [footprint])).setYg
      rfl _).jump rfl w
  | int => exact within_next (within_trapped s _ _) (exec_int s ▸ h)
  | lsl x =>
    rw [exec_lsl] at h
    exact within_rmw_putShift h
  | lsr x =>
    rw [exec_lsr] at h
    exact within_rmw_putShift h
  | asr x =>
    rw [exec_asr] at h
    exact within_rmw_putShift h
  | rol x =>
    rw [exec_rol] at h
    exact within_rmw_putShift h
  | ror x =>
    rw [exec_ror] at h
    exact within_rmw_putShift h
  | cmp8 k x =>
    rw [exec_cmp8] at h
    exact within_withSrc8 h id fun _ => within_flags_putStatus (by rfl)
  | cmp16 k x =>
    rw [exec_cmp16] at h
    exact within_withSrc16 h id fun _ =>
      (within_flags_putStatus (by rfl)).drawFlag (Flag.mem_resultFlags .y)
  | bit k x =>
    rw [exec_bit] at h
    exact within_withSrc8 h id fun _ =>
      (((within_flags_putStatus (by rfl)).drawFlag (Flag.mem_resultFlags .t)).drawFlag
        (Flag.mem_resultFlags .y)).drawFlag (Flag.mem_resultFlags .e)
  | bra p => exact within_next ((hrefl _).jump rfl _) h
  | jmp adr => exact within_next ((hrefl _).jump rfl _) h
  | jmc f adr =>
    rw [exec_jmc] at h
    refine within_next ?_ h
    cases hf : s.flag f with
    | false => exact hrefl _
    | true => exact (hrefl _).jump hf adr
  | beq p | bne p | bgt p | bge p | bls p | bhi p | bhe p | blo p =>
    exact within_next (within_branchIf _ p (hrefl _) rfl) h
  | bio p | bno p | bic p | bnc p | bih p | bnh p =>
    exact within_next (within_branchIf _ p (hrefl _) rfl) h
  | bsr p => exact within_next (within_called s _) (exec_bsr p s ▸ h)
  | jsr adr => exact within_next (within_called s adr) (exec_jsr adr s ▸ h)
  | bscRel f p => exact within_next (within_calledIf f s _) (exec_bscRel f p s ▸ h)
  | bscAbs f adr => exact within_next (within_calledIf f s adr) (exec_bscAbs f adr s ▸ h)
  | dbnzReg k p =>
    exact within_next (within_branchIf _ p ((hrefl _).setReg8 (List.mem_singleton.2 rfl) _) rfl) h
  | dbnzMem p adr =>
    obtain ⟨v, -, rfl⟩ := (exec_dbnzMem_next_iff p adr s t).1 h
    exact within_branchIf _ p ((hrefl _).poke (List.mem_singleton.2 rfl) _) rfl

/-! ### The frame of an instruction (rules R25, R27, R29, R71) -/

/-- Settles O12, by `exec_within`. -/
theorem bytesOutsideStoresUnchanged : Obligations.BytesOutsideStoresUnchanged :=
  fun _ _ _ a h ha => (exec_within h).bytes a ha

/-- Settles O13, by `exec_within`. -/
theorem registersOutsideFootprintUnchanged : Obligations.RegistersOutsideFootprintUnchanged :=
  fun _ _ _ h => ⟨(exec_within h).reg8, (exec_within h).sk, (exec_within h).yg⟩

/-- Only the four instructions of the interrupt flag have K in their footprint. -/
theorem footprint_k {i : Instr} (hi : i ∉ [Instr.ein, .din, .int, .rti]) (s : State) :
    (footprint i s).k = false := by
  cases i with
  | ein | din | int | rti => simp at hi
  | clr x | inc x | dec x | com x | neg x => cases x <;> rfl
  | clrBit n x | setBit n x => cases x <;> rfl
  | lsl x | lsr x | asr x | rol x | ror x => cases x <;> rfl
  | bscRel f | bscAbs f => simp only [footprint]; split <;> rfl
  | _ => rfl

/-- Settles O14, by `exec_within`. -/
theorem flagsOutsideFootprintUnchanged : Obligations.FlagsOutsideFootprintUnchanged :=
  fun _ s _ h => ⟨(exec_within h).flag, fun hi => (exec_within h).k (footprint_k hi s)⟩

/-- Settles O15, by `exec_within`. -/
theorem sequencingOutsideFootprintUnchanged : Obligations.SequencingOutsideFootprintUnchanged :=
  fun _ _ _ h => ⟨(exec_within h).ps, (exec_within h).irqPending, (exec_within h).boundary⟩

/-! ### What a step can do (rules R101, R384) -/

/-- The state after the acceptance of an interrupt at the boundary (rule R384). -/
def Machine.State.accepted (s : State) : State :=
  { s.pollIrq with irqPending := false }.trapped s.ps Config.irqEntry

theorem Machine.step_of_accepted {s : State} (h : s.pollIrq.irqAccepted = true) :
    step s = .next s.accepted := by
  simp only [step, h, if_true, State.acceptIrq_eq, finish]
  rfl

/-- A step that goes on is an acceptance, or an instruction run after the boundary poll. -/
theorem Machine.step_next_cases {s t : State} (h : step s = .next t) :
    (s.pollIrq.irqAccepted = true ∧ t = s.accepted) ∨
      ∃ i n, s.pollIrq.irqAccepted = false ∧ s.pollIrq.fetch = .ok (i, n) ∧
        exec i (s.pollIrq.advance n) = .next t := by
  cases hirq : s.pollIrq.irqAccepted with
  | true =>
    rw [step_of_accepted hirq] at h
    cases h
    exact .inl ⟨rfl, rfl⟩
  | false =>
    cases hf : s.pollIrq.fetch with
    | error f => simp [step, hirq, hf] at h
    | ok x =>
      obtain ⟨i, n⟩ := x
      rw [step_of_fetch hirq hf] at h
      exact .inr ⟨i, n, rfl, rfl, h⟩

/-- A step is within some footprint of a state that has the memory of `s`. -/
theorem Machine.step_within {s t : State} (h : step s = .next t) :
    ∃ fp u, u.mem = s.mem ∧ Within fp u t := by
  obtain ⟨-, rfl⟩ | ⟨i, n, -, -, hexec⟩ := step_next_cases h
  · exact ⟨_, { s.pollIrq with irqPending := false }, rfl, within_trapped _ _ _⟩
  · exact ⟨_, s.pollIrq.advance n, rfl, exec_within hexec⟩

/-- Settles O9: the memory is canonical after every update that a footprint allows (`Within`). -/
theorem stepKeepsMemoryCanonical : Obligations.StepKeepsMemoryCanonical := by
  intro s t hwf h
  obtain ⟨fp, u, hmem, hwithin⟩ := step_within h
  exact hwithin.canonical (hmem ▸ hwf)

/-- Settles O11: no update takes a byte away (`Within`). -/
theorem stepKeepsReadable : Obligations.StepKeepsReadable := by
  intro s t h a hread
  obtain ⟨fp, u, hmem, hwithin⟩ := step_within h
  exact hwithin.readable a (by rwa [State.read8_congr hmem])

end Sys2Proof
end


section
/-! Operands: effective addresses as numbers, reads that fail, and the reset state (20_memory section 5,
10_state section 7). -/

namespace Sys2Proof

open Machine

/-! ### Words as numbers -/

theorem toNat_word (h l : Byte) : (word h l).toNat = 256 * h.toNat + l.toNat :=
  toNat_byte_append h l

theorem toNat_zext16 (v : Byte) : (zext16 v).toNat = v.toNat := by
  rw [zext16, BitVec.toNat_setWidth, Nat.mod_eq_of_lt (by omega)]

theorem hi8_append (h l : Byte) : hi8 (h ++ l) = h := hi8_word h l

theorem lo8_append (h l : Byte) : lo8 (h ++ l) = l := lo8_word h l

theorem hi8_append_lo8 (v : Word) : hi8 v ++ lo8 v = v := word_hi8_lo8 v

/-! ### Effective addresses (rules R62 to R68) -/

theorem Machine.State.toNat_ea_indexed (s : State) (o : Byte) :
    (s.ea (.indexed o)).toNat = (s.sk.toNat + (off o).toNat) % 65536 :=
  BitVec.toNat_add _ _

theorem Machine.State.toNat_ea_indexedYg (s : State) (o : Byte) :
    (s.ea (.indexedYg o)).toNat = (s.yg.toNat + (off o).toNat) % 65536 :=
  BitVec.toNat_add _ _

theorem Machine.State.toNat_ea_indirect (s : State) :
    (s.ea .indirect).toNat = 256 * s.c.toNat + s.d.toNat :=
  toNat_word s.c s.d

theorem Machine.State.toNat_ea_indirectSk (s : State) (o : Byte) :
    (s.ea (.indirectSk o)).toNat =
      (s.sk.toNat + (256 * s.c.toNat + s.d.toNat) + (off o).toNat) % 65536 := by
  have hcd : (s.reg16 .cd).toNat = 256 * s.c.toNat + s.d.toNat := toNat_word s.c s.d
  rw [State.ea, BitVec.toNat_add, BitVec.toNat_add, hcd, Nat.mod_add_mod]

/-- Settles O16. -/
theorem effectiveAddressesOfDSUY : Obligations.EffectiveAddressesOfDSUY := by
  intro s h l o m
  have hbytes : memBytes (.direct (h ++ l)) = [h, l] := by
    rw [memBytes, hi8_append, lo8_append]
  exact ⟨hbytes, rfl, rfl, s.toNat_ea_indexed o, rfl, rfl, s.toNat_ea_indirectSk o, rfl, rfl, rfl,
    s.toNat_ea_indexedYg o, rfl⟩

theorem add_zext16 (w : Word) (r : Byte) : w + zext16 r = BitVec.ofNat 16 (w.toNat + r.toNat) := by
  apply BitVec.eq_of_toNat_eq
  rw [BitVec.toNat_add, toNat_zext16, BitVec.toNat_ofNat]

theorem sub_zext16 (w : Word) (r : Byte) :
    w - zext16 r = BitVec.ofNat 16 (65536 + w.toNat - r.toNat) := by
  apply BitVec.eq_of_toNat_eq
  rw [BitVec.toNat_sub, toNat_zext16, BitVec.toNat_ofNat]
  omega

/-- Settles O17: the offset is unsigned (`off_eq`), and the step is added or subtracted modulo 65536. -/
theorem effectiveAddressesOfKRZ : Obligations.EffectiveAddressesOfKRZ := by
  intro s o r
  have hea : (s.sk + off o).toNat = (s.sk.toNat + o.toNat) % 65536 := by
    rw [BitVec.toNat_add, off_eq, toNat_zext16]
  exact ⟨s.toNat_ea_indirect, rfl, hea, hea, congrArg (fun w => { s with sk := w }) (add_zext16 s.sk r),
    congrArg (fun w => { s with sk := w }) (sub_zext16 s.sk r)⟩

/-! ### Reads that fail (rules R34, R380) -/

theorem withSrc8_error {x : Src8} {s : State} {e : Fault} (h : s.src8 x = .error e)
    (f : Byte → State → State) : withSrc8 x s f = .fault e := by
  simp only [withSrc8, h]

theorem withSrc16_error {x : Src16} {s : State} {e : Fault} (h : s.src16 x = .error e)
    (f : Word → State → State) : withSrc16 x s f = .fault e := by
  simp only [withSrc16, h]

theorem rmw_error {x : Operand8} {s : State} {e : Fault} (h : s.operandOf s x = .error e)
    (f : Byte → Byte) (g : Byte → State → State) : rmw x s f g = .fault e := by
  cases x with
  | reg k => simp [State.operandOf] at h
  | mem m =>
    have hread : s.read8 (s.ea m) = .error e := h
    simp only [rmw, hread]

theorem exec_div_error {x : Src8} {s : State} {e : Fault} (h : s.src8 x = .error e) :
    exec (.div x) s = .fault e := by
  simp only [exec, execDiv, h]

/-- Where the destination is not SK or the method does not step SK, LDA has a meaning (rule R179). -/
theorem loadsAndStepsSk_eq_false {k : Reg16} {x : Src16}
    (h : ∀ o r, k = .sk → x ≠ .mem (.incremental o r) ∧ x ≠ .mem (.decremental o r)) :
    loadsAndStepsSk k x = false := by
  unfold loadsAndStepsSk
  split
  next o r => exact absurd rfl (h o r rfl).1
  next o r => exact absurd rfl (h o r rfl).2
  next => rfl

theorem exec_lda16_of_not_stepsSk {k : Reg16} {x : Src16} (s : State) (h : loadsAndStepsSk k x = false) :
    exec (.lda16 k x) s = withSrc16 x s fun v s => s.load16 k v := by
  simp only [exec, execLda16, h, Bool.false_eq_true, if_false]

theorem exec_dbnzMem_error {p : Byte} {adr : Word} {s : State} {e : Fault} (h : s.read8 adr = .error e) :
    exec (.dbnzMem p adr) s = .fault e := by
  simp only [exec, execDbnzMem, h]

theorem exec_pul_error {d : Acc} {s : State} {e : Fault} (h : s.read8 s.yg = .error e) :
    exec (.pul d) s = .fault e := by
  simp only [exec, execPul, State.pull8_eq, h, Except.map]

theorem Machine.State.read16_of_error {s : State} {a : Word} {e : Fault} (h : s.read8 a = .error e) :
    s.read16 a = .error e := by
  simp only [State.read16, h, bind, Except.bind]

theorem Machine.State.read16_of_second_error {s : State} {a : Word} {v : Byte} {e : Fault}
    (h : s.read8 a = .ok v) (h' : s.read8 (a + 1) = .error e) : s.read16 a = .error e := by
  simp only [State.read16, h, h', bind, Except.bind]

theorem exec_rts_error {s : State} {e : Fault} (h : s.read16 s.yg = .error e) :
    exec .rts s = .fault e := by
  simp only [exec, execRts, State.pull16_eq, h, Except.map]

/-- RTI stops in the fault of the DK byte. -/
theorem exec_rti_error_dk {s : State} {e : Fault} (h : s.read8 s.yg = .error e) :
    exec .rti s = .fault e := by
  simp only [exec, execRti, State.trapReturn_eq, h, finish]

/-- RTI stops in the fault of the return address. -/
theorem exec_rti_error_ps {s : State} {v : Byte} {e : Fault} (h : s.read8 s.yg = .ok v)
    (h' : s.read16 (s.yg + 1) = .error e) : exec .rti s = .fault e := by
  simp only [exec, execRti, State.trapReturn_eq, h, h', Except.map, finish]

/-- Settles O18: each shape of operand answers the fault of its read. -/
theorem unreadableOperandFaults : Obligations.UnreadableOperandFaults := by
  refine ⟨fun d k x s f h => ?src8, fun k x s f h => ⟨?src16, fun hsk => ?lda16⟩,
    fun n x s f h => ?operand, fun p adr s f h => exec_dbnzMem_error h, fun d s f h => ?first,
    fun s v f h1 h2 => ?second, fun s v h f h1 h2 h3 => ?third⟩
  case src8 =>
    simp [exec_add8, exec_adc, exec_sub8, exec_sue, exec_mul, exec_lda8,
      exec_and, exec_or, exec_xor, exec_cmp8, exec_bit, withSrc8_error h, exec_div_error h]
  case src16 =>
    simp [exec_add16, exec_sub16, exec_cmp16, withSrc16_error h]
  case lda16 =>
    rw [exec_lda16_of_not_stepsSk s (loadsAndStepsSk_eq_false hsk)]
    exact withSrc16_error h _
  case operand =>
    simp [exec_inc, exec_dec, exec_com, exec_neg, exec_clrBit, exec_setBit,
      exec_lsl, exec_lsr, exec_asr, exec_rol, exec_ror, rmw_error h]
  case first =>
    simp only [List.forall_mem_cons]
    exact ⟨exec_pul_error h, exec_rts_error (State.read16_of_error h), exec_rti_error_dk h,
      List.forall_mem_nil _⟩
  case second =>
    simp only [List.forall_mem_cons]
    exact ⟨exec_rts_error (State.read16_of_second_error h1 h2),
      exec_rti_error_ps h1 (State.read16_of_error h2), List.forall_mem_nil _⟩
  case third =>
    have h3' : s.read8 (s.yg + 1 + 1) = .error f := by
      rw [show s.yg + 1 + 1 = s.yg + 2 by bv_omega, h3]
    exact exec_rti_error_ps h1 (State.read16_of_second_error h2 h3')

/-! ### The reset state (rules R34, R383) -/

/-- With K disabling, no request is accepted (rule R384). -/
theorem Machine.State.not_irqAccepted_of_masked {s : State} (h : s.dk.k = false) :
    s.irqAccepted = false := by
  simp only [State.irqAccepted, State.irqEnabled, h, kEnabling, kOneEnables, Bool.false_and,
    Bool.false_beq, Bool.not_true]

/-- Settles O10. -/
theorem resetIsCanonicalAndMasked : Obligations.ResetIsCanonicalAndMasked :=
  ⟨State.reset_wf, rfl, rfl, State.not_irqAccepted_of_masked rfl, fun _ => rfl⟩

end Sys2Proof
end


section
/-! Arithmetic and compare: results and flags in integers (40_arithmetic, 46_compare), and the branches
that read them (47_jump_branch sections 1 to 3). -/

namespace Sys2Proof

open Machine

/-! ### The flags of additions and subtractions in integers (rules R30, R131, R132) -/

theorem Machine.Status.afterAdd8_eq (dk : Status) (a b : Byte) (c : Bool) :
    dk.afterAdd8 a b c =
      { dk with
        e := decide (255 < a.toNat + b.toNat + c.toNat)
        y := decide (15 < a.toNat % 16 + b.toNat % 16 + c.toNat)
        t := decide (a.toInt + b.toInt + c.toNat < -128 ∨ 127 < a.toInt + b.toInt + c.toNat)
        s := decide (add8 a b c = 0), n := decide ((add8 a b c).toInt < 0) } := by
  simp only [Status.afterAdd8, Status.sn8_eq, add8_overflow]
  rfl

theorem Machine.Status.afterSub8_eq (dk : Status) (a b : Byte) (c : Bool) :
    dk.afterSub8 a b c =
      { dk with
        e := decide (a.toNat < b.toNat + c.toNat)
        y := decide (a.toNat % 16 < b.toNat % 16 + c.toNat)
        t := decide (a.toInt - b.toInt - c.toNat < -128 ∨ 127 < a.toInt - b.toInt - c.toNat)
        s := decide (sub8 a b c = 0), n := decide ((sub8 a b c).toInt < 0) } := by
  simp only [Status.afterSub8, Status.sn8_eq, sub8_overflow]
  rfl

theorem Machine.Status.afterAdd16_eq (dk : Status) (a b : Word) :
    dk.afterAdd16 a b =
      { dk with
        e := decide (65535 < a.toNat + b.toNat)
        t := decide (a.toInt + b.toInt < -32768 ∨ 32767 < a.toInt + b.toInt)
        s := decide (a + b = 0), n := decide ((a + b).toInt < 0) } := by
  simp only [Status.afterAdd16, Status.sn16_eq, add16_overflow]
  rw [add16_eq]
  rfl

theorem Machine.Status.afterSub16_eq (dk : Status) (a b : Word) :
    dk.afterSub16 a b =
      { dk with
        e := decide (a.toNat < b.toNat)
        t := decide (a.toInt - b.toInt < -32768 ∨ 32767 < a.toInt - b.toInt)
        s := decide (a - b = 0), n := decide ((a - b).toInt < 0) } := by
  simp only [Status.afterSub16, Status.sn16_eq, sub16_overflow]
  rw [sub16_eq]

/-! ### The step of SK leaves flags alone -/

@[simp] theorem Machine.State.flag_post8 (s : State) (x : Src8) (f : Flag) :
    (s.post8 x).flag f = s.flag f := State.flag_congr (by simp) f

@[simp] theorem Machine.State.flag_post16 (s : State) (x : Src16) (f : Flag) :
    (s.post16 x).flag f = s.flag f := State.flag_congr (by simp) f

@[simp] theorem Machine.State.reg16_ab_post16 (s : State) (x : Src16) :
    (s.post16 x).reg16 .ab = s.reg16 .ab := by
  simp only [State.reg16, State.post16_a, State.post16_b]

/-! ### ADD, ADC, SUB, SUE -/

theorem Machine.State.accAdd_eq (s : State) (d : Acc) (v : Byte) (c : Bool) :
    s.accAdd d v c = (s.setReg8 (accReg d) (add8 (s.reg8 (accReg d)) v c)).putStatus
      (s.dk.afterAdd8 (s.reg8 (accReg d)) v c) := rfl

theorem Machine.State.accSub_eq (s : State) (d : Acc) (v : Byte) (c : Bool) :
    s.accSub d v c = (s.setReg8 (accReg d) (sub8 (s.reg8 (accReg d)) v c)).putStatus
      (s.dk.afterSub8 (s.reg8 (accReg d)) v c) := rfl

/-- Settles O19: ADD is ADC with the carry 0. -/
theorem addAndAdcGiveSumAndFlags : Obligations.AddAndAdcGiveSumAndFlags := by
  intro d x s v i c h hi
  have hexec : exec i s = .next ((s.accAdd d v c).post8 x) := by
    rcases hi with ⟨rfl, rfl⟩ | ⟨rfl, rfl⟩
    · exact (exec_add8 d x s).trans (withSrc8_ok h _)
    · exact (exec_adc d x s).trans (withSrc8_ok h _)
  have hreg : ((s.accAdd d v c).post8 x).reg8 (accReg d) = add8 (s.reg8 (accReg d)) v c := by
    simp [State.accAdd_eq]
  refine ⟨_, hexec, hreg.trans (add8_eq _ _ _), ?e, ?y, ?t, ?s, ?n, ?sk⟩
  case sk => exact State.post8_sk_congr (by simp [State.accAdd_eq]) x
  all_goals simp [State.flag, State.accAdd_eq, Status.afterAdd8_eq]

/-- Settles O20: SUB is SUE with the borrow 0. -/
theorem subAndSueGiveDifferenceAndFlags : Obligations.SubAndSueGiveDifferenceAndFlags := by
  intro d x s v i c h hi
  have hexec : exec i s = .next ((s.accSub d v c).post8 x) := by
    rcases hi with ⟨rfl, rfl⟩ | ⟨rfl, rfl⟩
    · exact (exec_sub8 d x s).trans (withSrc8_ok h _)
    · exact (exec_sue d x s).trans (withSrc8_ok h _)
  have hreg : ((s.accSub d v c).post8 x).reg8 (accReg d) = sub8 (s.reg8 (accReg d)) v c := by
    simp [State.accSub_eq]
  refine ⟨_, hexec, hreg.trans (sub8_eq _ _ _), ?e, ?y, ?t, ?s, ?n, ?sk⟩
  case sk => exact State.post8_sk_congr (by simp [State.accSub_eq]) x
  all_goals simp [State.flag, State.accSub_eq, Status.afterSub8_eq]

/-! ### ADD AB and SUB AB -/

/-- AB written, DK as computed, Y drawn. -/
theorem Machine.State.reg16_ab_putArith16 (s : State) (w : Word) (dk : Status) :
    ((s.setReg16 .ab w).putArith16 dk).reg16 .ab = w :=
  word_hi8_lo8 w

theorem Machine.State.dk_putArith16 (s : State) (w : Word) (dk : Status) :
    ((s.setReg16 .ab w).putArith16 dk).dk = { dk with y := Config.unspecifiedBit s.draws } := rfl

/-- Settles O21. -/
theorem wordAddAndSubGiveResultAndFlags : Obligations.WordAddAndSubGiveResultAndFlags := by
  intro x s v h
  constructor
  · refine ⟨_, (exec_add16 x s).trans (withSrc16_ok h _), ?_, ?_, ?_, ?_, ?_, ?_,
      State.post16_sk_congr (by rfl) x⟩
    all_goals simp only [State.flag, State.reg16_ab_post16, State.post16_dk, State.reg16_ab_putArith16,
      State.dk_putArith16, Status.afterAdd16_eq, add16_eq, Status.get_e, Status.get_t, Status.get_s,
      Status.get_n, Status.get_y]
  · refine ⟨_, (exec_sub16 x s).trans (withSrc16_ok h _), ?_, ?_, ?_, ?_, ?_, ?_,
      State.post16_sk_congr (by rfl) x⟩
    all_goals simp only [State.flag, State.reg16_ab_post16, State.post16_dk, State.reg16_ab_putArith16,
      State.dk_putArith16, Status.afterSub16_eq, sub16_eq, Status.get_e, Status.get_t, Status.get_s,
      Status.get_n, Status.get_y]

/-! ### MUL and DIV -/

theorem toNat_hi8_lo8 (w : Word) : 256 * (hi8 w).toNat + (lo8 w).toNat = w.toNat := by
  rw [← toNat_word, word_hi8_lo8]

/-- The product of two bytes fits a word. -/
theorem toNat_mulResult (a v : Byte) : (mulResult a v).toNat = a.toNat * v.toNat := by
  have hle : a.toNat * v.toNat ≤ 255 * 255 := Nat.mul_le_mul (by omega) (by omega)
  rw [mulResult_eq, BitVec.toNat_mul, toNat_zext16, toNat_zext16, Nat.mod_eq_of_lt (by omega)]

theorem toNat_divResult (ab : Word) (v : Byte) : (divResult ab v).toNat = ab.toNat / v.toNat := by
  have hle : ab.toNat / v.toNat ≤ ab.toNat := Nat.div_le_self _ _
  rw [divResult, BitVec.toNat_ofNat, Nat.mod_eq_of_lt (by omega)]

/-- AB after MUL or DIV is the word written. -/
theorem toNat_ab_drawAll_post8 (s : State) (w : Word) (x : Src8) :
    256 * (((s.setReg16 .ab w).drawAll).post8 x).a.toNat +
      (((s.setReg16 .ab w).drawAll).post8 x).b.toNat = w.toNat := by
  rw [State.post8_a, State.post8_b, State.drawAll_a, State.drawAll_b]
  exact toNat_hi8_lo8 w

theorem sk_ab_drawAll_post8 (s : State) (w : Word) (x : Src8) :
    (((s.setReg16 .ab w).drawAll).post8 x).sk = (s.post8 x).sk :=
  State.post8_sk_congr (by rw [State.drawAll_sk]; rfl) x

/-- Settles O22. -/
theorem mulGivesExactProduct : Obligations.MulGivesExactProduct := by
  intro x s v h
  refine ⟨_, (exec_mul x s).trans (withSrc8_ok h _), ?_, sk_ab_drawAll_post8 s _ x⟩
  rw [toNat_ab_drawAll_post8, toNat_mulResult]

theorem exec_div_zero {x : Src8} {s : State} (h : s.src8 x = .ok 0) :
    exec (.div x) s = .fault .divideByZero := by
  simp only [exec, execDiv, h, if_true]

/-- Settles O23. -/
theorem divGivesQuotientOrFaults : Obligations.DivGivesQuotientOrFaults := by
  intro x s v h
  refine ⟨fun hv => exec_div_zero (hv ▸ h), fun hv =>
    ⟨_, (exec_div_next_iff x s _).2 ⟨v, h, hv, rfl⟩, ?_, sk_ab_drawAll_post8 s _ x⟩⟩
  rw [toNat_ab_drawAll_post8, toNat_divResult]
  exact congrArg (· / v.toNat) (toNat_word s.a s.b)

/-! ### CMP and BIT -/

theorem neg8_eq_getLsbD (r : Byte) : decide (r.toInt < 0) = r.getLsbD 7 :=
  (msb_eq_neg8 r).symm.trans (BitVec.msb_eq_getLsbD_last r)

theorem neg16_eq_getLsbD (r : Word) : decide (r.toInt < 0) = r.getLsbD 15 :=
  (msb_eq_neg16 r).symm.trans (BitVec.msb_eq_getLsbD_last r)

/-- The flags of a compare: S is the equality, as a difference is 0 exactly when its sides are equal. -/
theorem Machine.Status.afterSub8_false (dk : Status) (a b : Byte) :
    dk.afterSub8 a b false =
      { e := decide (a.toNat < b.toNat)
        y := decide (a.toNat % 16 < b.toNat % 16)
        t := decide (a.toInt - b.toInt < -128 ∨ 127 < a.toInt - b.toInt)
        s := decide (a = b), n := (a - b).getLsbD 7, k := dk.k } := by
  have hsub : sub8 a b false = a - b := by simp [sub8_eq]
  simp only [Status.afterSub8_eq, hsub, sub_eq_zero, neg8_eq_getLsbD, Bool.toNat_false, Nat.add_zero,
    Nat.cast_zero, sub_zero]

/-- Settles O47. -/
theorem byteCompare : Obligations.ByteCompare := by
  intro k x s v h
  refine ⟨_, (exec_cmp8 k x s).trans (withSrc8_ok h _), fun j => by simp,
    State.post8_sk_congr (by simp) x, ?_⟩
  rw [State.post8_dk, State.putStatus_dk, Status.afterSub8_false]

/-- Settles O48. -/
theorem wordCompare : Obligations.WordCompare := by
  intro k x s v h
  refine ⟨_, (exec_cmp16 k x s).trans (withSrc16_ok h _), fun j => by simp,
    State.post16_sk_congr (by simp) x, ?_⟩
  simp only [State.post16_dk, State.drawFlag_dk, State.putStatus_dk, State.putStatus_draws,
    Status.put_y, Status.afterSub16_eq, sub_eq_zero, neg16_eq_getLsbD]

/-- Settles O49. -/
theorem bitTest : Obligations.BitTest := by
  intro k x s v h
  refine ⟨_, (exec_bit k x s).trans (withSrc8_ok h _), fun j => by simp,
    State.post8_sk_congr (by simp) x, ?_⟩
  simp only [State.post8_dk, State.drawFlag_dk, State.drawFlag_draws, State.putStatus_dk,
    State.putStatus_draws, Status.put_t, Status.put_y, Status.put_e, Status.sn8_eq, neg8_eq_getLsbD,
    BitVec.getLsbD_and]

/-! ### Branches by the flags (rules R330, R334 to R347) -/

/-- A branch writes PS only; the target in integers. -/
theorem Machine.State.branchIf_eq_ofInt (s : State) (c : Bool) (p : Byte) :
    s.branchIf c p =
      { s with ps := if c then BitVec.ofInt 16 (s.ps.toNat + p.toInt) else s.ps } := by
  rw [State.branchIf_eq, State.relTarget_eq]
  rfl

/-- The named branches with their conditions on S, N, T, E. -/
def namedBranches (p : Byte) (s : State) : List (Instr × Bool) :=
  [(.beq p, s.flag .s), (.bne p, !s.flag .s), (.bgt p, !s.flag .s && s.flag .n == s.flag .t),
    (.bge p, s.flag .n == s.flag .t), (.bls p, s.flag .n != s.flag .t),
    (.bhi p, !s.flag .e && !s.flag .s), (.bhe p, !s.flag .e), (.blo p, s.flag .e)]

theorem exec_namedBranch {p : Byte} {s : State} {i : Instr} {c : Bool}
    (h : (i, c) ∈ namedBranches p s) : exec i s = .next (s.branchIf c p) := by
  have hrows : ∀ x ∈ namedBranches p s, exec x.1 s = .next (s.branchIf x.2 p) := by
    simp only [namedBranches, List.forall_mem_cons]
    exact ⟨rfl, rfl, rfl, rfl, rfl, rfl, rfl, rfl, List.forall_mem_nil _⟩
  exact hrows (i, c) h

/-- Settles O52. -/
theorem namedBranchConditions : Obligations.NamedBranchConditions := by
  intro p s i c h
  rw [exec_namedBranch h, State.branchIf_eq_ofInt]

/-- The branches by one flag, with their first bytes. -/
def flagBranches (p : Byte) (s : State) : List (Byte × Instr × Bool) :=
  [(0b10001001, .bio p, s.flag .t), (0b10001010, .bno p, !s.flag .t), (0b10001011, .bic p, s.flag .e),
    (0b10001100, .bnc p, !s.flag .e), (0b10001101, .bih p, s.flag .y), (0b10001110, .bnh p, !s.flag .y)]

theorem decode_exec_flagBranch {p b : Byte} {s : State} {i : Instr} {c : Bool}
    (h : (b, i, c) ∈ flagBranches p s) (rest : List Byte) :
    decode (b :: p :: rest) = .done i 2 ∧ exec i s = .next (s.branchIf c p) := by
  have hrows : ∀ x ∈ flagBranches p s,
      decode (x.1 :: p :: rest) = .done x.2.1 2 ∧ exec x.2.1 s = .next (s.branchIf x.2.2 p) := by
    simp only [flagBranches, List.forall_mem_cons]
    exact ⟨⟨rfl, rfl⟩, ⟨rfl, rfl⟩, ⟨rfl, rfl⟩, ⟨rfl, rfl⟩, ⟨rfl, rfl⟩, ⟨rfl, rfl⟩,
      List.forall_mem_nil _⟩
  exact hrows (b, i, c) h

/-- Settles O53. -/
theorem flagBranchConditions : Obligations.FlagBranchConditions := by
  intro p b s rest i c h
  obtain ⟨hdec, hexec⟩ := decode_exec_flagBranch h rest
  exact ⟨hdec, by rw [hexec, State.branchIf_eq_ofInt]⟩

/-- Settles O50. -/
theorem unconditionalJumps : Obligations.UnconditionalJumps := by
  intro p h l rest s
  refine ⟨rfl, ?_, rfl, rfl⟩
  exact congrArg (fun w => Host.Outcome.next { s with ps := w }) (s.relTarget_eq p)

/-! ### The order of the compared values (rules R334 to R341) -/

/-- N differs from T after a compare exactly when the exact difference is negative. -/
theorem sign_ne_overflow_iff (a v : Byte) :
    ((a - v).getLsbD 7 != decide (a.toInt - v.toInt < -128 ∨ 127 < a.toInt - v.toInt)) =
      decide (a.toInt < v.toInt) := by
  rw [← neg8_eq_getLsbD]
  have ha := a.isLt
  have hv := v.isLt
  simp only [toInt_eq8, BitVec.toNat_sub]
  rw [Bool.eq_iff_iff]
  simp only [bne_iff_ne, ne_eq, decide_eq_decide, decide_eq_true_eq]
  split <;> split <;> split <;> omega

/-- The named branches with the orders that they decide after a compare of `a` and `v`. -/
def orderBranches (p a v : Byte) : List (Instr × Bool) :=
  [(.beq p, decide (a = v)), (.bne p, decide (a ≠ v)), (.bgt p, decide (v.toInt < a.toInt)),
    (.bge p, decide (v.toInt ≤ a.toInt)), (.bls p, decide (a.toInt < v.toInt)),
    (.bhi p, decide (v.toNat < a.toNat)), (.bhe p, decide (v.toNat ≤ a.toNat)),
    (.blo p, decide (a.toNat < v.toNat))]

/-- After a compare the conditions on the flags are the orders. -/
theorem namedBranches_after_compare {s : State} {a v : Byte} {dk : Status}
    (hdk : s.dk = dk.afterSub8 a v false) (p : Byte) : namedBranches p s = orderBranches p a v := by
  have hbls : (s.flag .n != s.flag .t) = decide (a.toInt < v.toInt) := by
    rw [← sign_ne_overflow_iff, State.flag, State.flag, hdk, Status.afterSub8_false]
    rfl
  have hs : s.flag .s = decide (a = v) := by rw [State.flag, hdk, Status.afterSub8_false]; rfl
  have he : s.flag .e = decide (a.toNat < v.toNat) := by
    rw [State.flag, hdk, Status.afterSub8_false]; rfl
  have hbge : (s.flag .n == s.flag .t) = decide (v.toInt ≤ a.toInt) := by
    rw [← Bool.not_not (s.flag .n == s.flag .t), ← bne, hbls, ← decide_not, decide_eq_decide, not_lt]
  have hbgt : (!s.flag .s && s.flag .n == s.flag .t) = decide (v.toInt < a.toInt) := by
    rw [hbge, hs, ← decide_not, ← Bool.decide_and, decide_eq_decide, lt_iff_le_and_ne, ne_eq,
      BitVec.toInt_inj, eq_comm, and_comm]
  have hbhi : (!s.flag .e && !s.flag .s) = decide (v.toNat < a.toNat) := by
    rw [he, hs, ← decide_not, ← decide_not, ← Bool.decide_and, decide_eq_decide, ← BitVec.toNat_inj]
    omega
  have hbhe : (!s.flag .e) = decide (v.toNat ≤ a.toNat) := by
    rw [he, ← decide_not, decide_eq_decide, not_lt]
  rw [namedBranches, orderBranches, hbls, hbgt, hbge, hbhi, hbhe, hs, he, decide_not]

/-- Settles O54: the branches are those of O52, and moving PS leaves the flags. -/
theorem compareThenBranchDecidesOrder : Obligations.CompareThenBranchDecidesOrder := by
  intro k x s v p h
  refine ⟨_, (exec_cmp8 k x s).trans (withSrc8_ok h _), fun n i c hic => ?_⟩
  refine ⟨_, exec_namedBranch (c := c) ?_, by rw [State.branchIf_eq_ofInt]⟩
  rw [namedBranches_after_compare (dk := s.dk) (a := s.reg8 k) (v := v) (by simp)]
  exact hic

end Sys2Proof
end


section
/-! Transfer, logic, OPERATION - I, shifts and the operation instructions: results, flags and what is
stored (41_transfer to 45_shift_rotate). -/

namespace Sys2Proof

open Machine

/-! ### Registers, and what a step of SK leaves -/

/-- The second write of an exchange leaves the register of the first alone, or it is the same register
(rule R172). -/
theorem Machine.State.reg8_exchange (s : State) (ki kj : Reg8) :
    ((s.setReg8 ki (s.reg8 kj)).setReg8 kj (s.reg8 ki)).reg8 ki = s.reg8 kj := by
  rw [State.reg8_setReg8]
  split
  next h => rw [h]
  next => exact State.reg8_setReg8_self s ki _

theorem toNat_swapNibbles (v : Byte) : (swapNibbles v).toNat = 16 * (v.toNat % 16) + v.toNat / 16 := by
  revert v
  decide

/-- Settles O24. -/
theorem byteRegisterMoves : Obligations.ByteRegisterMoves := by
  intro s ki kj
  refine ⟨⟨s.setReg8 ki (s.reg8 kj), rfl, State.reg8_setReg8_self _ _ _, State.setReg8_dk _ _ _⟩,
    ⟨_, rfl, s.reg8_exchange ki kj, State.reg8_setReg8_self _ _ _, by simp⟩,
    ⟨_, rfl, State.setReg8_dk _ _ _, ?_⟩⟩
  rw [State.reg8_setReg8_self, toNat_swapNibbles]

/-! ### Loads and stores (rules R174, R175, R179, R180) -/

/-- What LDA and MOV write to a 16-bit register and DK. -/
theorem Machine.State.dk_load16 (s : State) (k : Reg16) (v : Word) :
    (s.load16 k v).dk = { s.dk with s := decide (v = 0), n := decide (v.toInt < 0) } :=
  Status.sn16_eq s.dk v

theorem Machine.State.reg16_putStatus (s : State) (dk : Status) (k : Reg16) :
    (s.putStatus dk).reg16 k = s.reg16 k := by
  cases k <;> rfl

theorem Machine.State.reg16_load16 (s : State) (k : Reg16) (v : Word) : (s.load16 k v).reg16 k = v := by
  rw [State.load16, State.reg16_putStatus, State.reg16_setReg16_self]

theorem Machine.State.sk_load16_of_ne (s : State) {k : Reg16} (v : Word) (h : k ≠ .sk) :
    (s.load16 k v).sk = s.sk :=
  (s.setReg16 k v).reg16_putStatus _ .sk |>.trans (s.reg16_setReg16_of_ne v h.symm)

theorem Machine.State.reg16_post16_of_ne (s : State) (x : Src16) {k : Reg16} (h : k ≠ .sk) :
    (s.post16 x).reg16 k = s.reg16 k := by
  cases k with
  | sk => exact absurd rfl h
  | _ => simp [State.reg16]

/-- Where the method does not step SK, `post16` does nothing to SK either. -/
theorem Machine.State.post16_of_not_stepsSk (s : State) {x : Src16} (h : loadsAndStepsSk .sk x = false) :
    s.post16 x = s := by
  cases x with
  | mem m =>
    cases m with
    | incremental | decremental => simp [loadsAndStepsSk] at h
    | _ => rfl
  | _ => rfl

/-- Settles O25: the store is read back at the address it was made to. -/
theorem byteLoadAndStore : Obligations.ByteLoadAndStore := by
  refine ⟨fun k x s v h => ?load, fun k m s => ?store⟩
  case load =>
    exact ⟨_, (exec_lda8 k x s).trans (withSrc8_ok h _), by simp, by simp,
      State.post8_sk_congr (by simp) x⟩
  case store =>
    exact ⟨_, store8_eq m (s.reg8 k) s, by simp, by simp, State.stepSk_sk_congr (by simp) m⟩

/-- Settles O27. -/
theorem wordMove : Obligations.WordMove := fun kii kjj s =>
  ⟨s.load16 kii (s.reg16 kjj), rfl, State.reg16_load16 _ _ _, State.dk_load16 _ _ _⟩

/-- Settles O29: where SK is loaded the method does not step it. -/
theorem wordLoad : Obligations.WordLoad := by
  refine ⟨fun k x s v h hsk => ?load, fun o r m s hm => ?fault⟩
  case load =>
    have hmeaning := loadsAndStepsSk_eq_false hsk
    refine ⟨(s.load16 k v).post16 x,
      (exec_lda16_of_not_stepsSk s hmeaning).trans (withSrc16_ok h _), ?_,
      fun hk => State.post16_sk_congr (State.sk_load16_of_ne s v hk) x, ?_⟩
    · by_cases hk : k = .sk
      · rw [State.post16_of_not_stepsSk _ (hk ▸ hmeaning), State.reg16_load16]
      · rw [State.reg16_post16_of_ne _ x hk, State.reg16_load16]
    · rw [State.post16_dk, State.dk_load16]
  case fault => rcases hm with rfl | rfl <;> rfl

/-- Settles O30: the second byte is stored at another address than the first. -/
theorem wordStore : Obligations.WordStore := by
  intro k m s
  have hne : s.ea m ≠ s.ea m + 1 := by bv_omega
  refine ⟨_, store16_eq m (s.reg16 k) s,
    ⟨hi8 (s.reg16 k), lo8 (s.reg16 k), (word_hi8_lo8 _).symm, ?_, by simp⟩, by simp,
    State.stepSk_sk_congr (by simp) m⟩
  rw [State.read8_stepSk, State.read8_poke, if_neg hne, State.read8_poke_same]

/-! ### Logic (rules R200 to R203) -/

/-- S and N of a byte, N as its top bit. -/
theorem Machine.Status.sn8_eq_getLsbD (dk : Status) (r : Byte) :
    dk.sn8 r = { dk with s := decide (r = 0), n := r.getLsbD 7 } := by
  rw [Status.sn8_eq, neg8_eq_getLsbD]

/-- Settles O31. -/
theorem logicIsBitwise : Obligations.LogicIsBitwise := by
  intro d x s v i op h hi
  obtain ⟨r, hexec, hbits⟩ : ∃ r, exec i s = .next ((s.accLogic d r).post8 x) ∧
      ∀ j, r.getLsbD j = op ((s.reg8 (accReg d)).getLsbD j) (v.getLsbD j) := by
    rcases hi with ⟨rfl, rfl⟩ | ⟨rfl, rfl⟩ | ⟨rfl, rfl⟩
    · exact ⟨_, (exec_and d x s).trans (withSrc8_ok h _), fun j => BitVec.getLsbD_and⟩
    · exact ⟨_, (exec_or d x s).trans (withSrc8_ok h _), fun j => BitVec.getLsbD_or⟩
    · exact ⟨_, (exec_xor d x s).trans (withSrc8_ok h _), fun j => BitVec.getLsbD_xor⟩
  have hreg : ((s.accLogic d r).post8 x).reg8 (accReg d) = r := by simp [State.accLogic]
  refine ⟨_, hexec, fun j _ => by rw [hreg, hbits], ?_,
    State.post8_sk_congr (by simp [State.accLogic]) x⟩
  rw [hreg, State.post8_dk, State.accLogic, State.putStatus_dk, Status.sn8_eq_getLsbD]

/-! ### Read-modify-write (rule R220) -/

/-- What a read-modify-write answers: the operand is written, DK is as the flag update makes it, and SK
is stepped. The flag update `g` writes DK and the draws only. -/
theorem rmw_ok {x : Operand8} {s : State} {v : Byte} (h : s.operandOf s x = .ok v) (f : Byte → Byte)
    {g : Byte → State → State} {dk : Status} (hmem : ∀ u, (g v u).mem = u.mem)
    (hreg : ∀ u k, (g v u).reg8 k = u.reg8 k) (hsk : ∀ u, (g v u).sk = u.sk)
    (hdk : ∀ u : State, u.dk = s.dk → u.draws = s.draws → (g v u).dk = dk) :
    ∃ t, rmw x s f g = .next t ∧ t.operandOf s x = .ok (f v) ∧ t.sk = s.skAfter x ∧ t.dk = dk := by
  cases x with
  | reg k =>
    have hv : s.reg8 k = v := Except.ok.inj h
    refine ⟨_, rmw_reg k s f g, ?_, ?_, ?_⟩
    · rw [State.operandOf, hv, hreg, State.reg8_setReg8_self]
    · rw [hv, hsk, State.setReg8_sk, State.skAfter]
    · rw [hv, hdk _ (by simp) (by simp)]
  | mem m =>
    refine ⟨_, rmw_mem_ok h f g, ?_, ?_, ?_⟩
    · rw [State.operandOf, State.read8_stepSk, State.read8_congr (hmem _), State.read8_poke_same]
    · exact State.stepSk_sk_congr (s := s) (hsk (s.poke (s.ea m) (f v))) m
    · exact (State.stepSk_dk _ m).trans (hdk (s.poke (s.ea m) (f v)) rfl rfl)

/-- A read-modify-write whose flag update is DK as a whole. -/
theorem rmw_putStatus_ok {x : Operand8} {s : State} {v : Byte} (h : s.operandOf s x = .ok v)
    (f : Byte → Byte) (F : Byte → Status → Status) :
    ∃ t, rmw x s f (fun v u => u.putStatus (F v u.dk)) = .next t ∧ t.operandOf s x = .ok (f v) ∧
      t.sk = s.skAfter x ∧ t.dk = F v s.dk :=
  rmw_ok h f (fun _ => rfl) (fun _ _ => State.reg8_putStatus _ _ _) (fun _ => rfl)
    (fun _ hdk _ => congrArg (F v) hdk)

/-- CLR writes its operand without reading it (rule R221). -/
theorem exec_clr_ok (x : Operand8) (s : State) :
    ∃ t, exec (.clr x) s = .next t ∧ t.operandOf s x = .ok 0 ∧ t.sk = s.skAfter x ∧
      t.dk = s.dk.afterClr := by
  cases x with
  | reg k => exact ⟨_, rfl, by simp [State.operandOf], by simp [State.skAfter], rfl⟩
  | mem m =>
    refine ⟨((s.poke (s.ea m) 0).putStatus s.dk.afterClr).stepSk m, rfl, ?_,
      State.stepSk_sk_congr (s := s) (t := (s.poke (s.ea m) 0).putStatus s.dk.afterClr) rfl m, by simp⟩
    rw [State.operandOf, State.read8_stepSk]
    exact State.read8_poke_same s _ 0

/-- Settles O32. -/
theorem clearOperand : Obligations.ClearOperand := exec_clr_ok

/-! ### INC and DEC (rules R222, R223, R262, R263) -/

theorem Machine.Status.afterInc8_eq (dk : Status) (v : Byte) :
    dk.afterInc8 v = { dk with
      t := decide (127 < v.toInt + 1), e := decide (255 < v.toNat + 1)
      s := decide (v + 1 = 0), n := decide ((v + 1).toInt < 0) } := by
  have ht : (v == 0x7F) = decide (127 < v.toInt + 1) := by revert v; decide
  have he : (v == 0xFF) = decide (255 < v.toNat + 1) := by revert v; decide
  simp only [Status.afterInc8, Status.sn8_eq, ht, he]

theorem Machine.Status.afterDec8_eq (dk : Status) (v : Byte) :
    dk.afterDec8 v = { dk with
      t := decide (v.toInt - 1 < -128), e := decide (v.toNat < 1)
      s := decide (v - 1 = 0), n := decide ((v - 1).toInt < 0) } := by
  have ht : (v == 0x80) = decide (v.toInt - 1 < -128) := by revert v; decide
  have he : (v == 0x00) = decide (v.toNat < 1) := by revert v; decide
  simp only [Status.afterDec8, Status.sn8_eq, ht, he]

/-- Settles O33. -/
theorem byteIncrementAndDecrement : Obligations.ByteIncrementAndDecrement := by
  intro x s v h
  refine ⟨?inc, ?dec⟩
  case inc =>
    rw [exec_inc, ← Status.afterInc8_eq]
    exact rmw_putStatus_ok h (fun v => v + 1) fun v dk => dk.afterInc8 v
  case dec =>
    rw [exec_dec, ← Status.afterDec8_eq]
    exact rmw_putStatus_ok h (fun v => v - 1) fun v dk => dk.afterDec8 v

theorem beq16_iff (v w : Word) : (v == w) = decide (v.toNat = w.toNat) := by
  rw [Bool.eq_iff_iff, beq_iff_eq, decide_eq_true_eq, BitVec.toNat_inj]

theorem Machine.Status.afterInc16_eq (dk : Status) (v : Word) :
    dk.afterInc16 v = { dk with
      t := decide (32767 < v.toInt + 1), e := decide (65535 < v.toNat + 1)
      s := decide (v + 1 = 0), n := decide ((v + 1).toInt < 0) } := by
  have hv := v.isLt
  have ht : (v == 0x7FFF) = decide (32767 < v.toInt + 1) := by
    rw [beq16_iff, toInt_eq16, decide_eq_decide, show (0x7FFF : Word).toNat = 0x7FFF from rfl]
    split <;> omega
  have he : (v == 0xFFFF) = decide (65535 < v.toNat + 1) := by
    rw [beq16_iff, decide_eq_decide, show (0xFFFF : Word).toNat = 0xFFFF from rfl]
    omega
  simp only [Status.afterInc16, Status.sn16_eq, ht, he]

theorem Machine.Status.afterDec16_eq (dk : Status) (v : Word) :
    dk.afterDec16 v = { dk with
      t := decide (v.toInt - 1 < -32768), e := decide (v.toNat < 1)
      s := decide (v - 1 = 0), n := decide ((v - 1).toInt < 0) } := by
  have hv := v.isLt
  have ht : (v == 0x8000) = decide (v.toInt - 1 < -32768) := by
    rw [beq16_iff, toInt_eq16, decide_eq_decide, show (0x8000 : Word).toNat = 0x8000 from rfl]
    split <;> omega
  have he : (v == 0x0000) = decide (v.toNat < 1) := by
    rw [beq16_iff, decide_eq_decide, show (0x0000 : Word).toNat = 0 from rfl]
    omega
  simp only [Status.afterDec16, Status.sn16_eq, ht, he]

/-- Settles O37. -/
theorem wordIncrementAndDecrement : Obligations.WordIncrementAndDecrement := by
  intro k s
  refine ⟨⟨_, rfl, ?_, Status.afterInc16_eq _ _⟩, ⟨_, rfl, ?_, Status.afterDec16_eq _ _⟩⟩
  · rw [State.reg16_putStatus, State.reg16_setReg16_self]
  · rw [State.reg16_putStatus, State.reg16_setReg16_self]

/-! ### COM, NEG and the bit writes (rules R224 to R227) -/

theorem getLsbD_bitMask (n : BitVec 3) {j : Nat} (hj : j < 8) :
    (bitMask n).getLsbD j = decide (j = n.toNat) := by
  revert n
  interval_cases j <;> decide

theorem eq_of_getLsbD8 {r r' : Byte} (h : ∀ j < 8, r.getLsbD j = r'.getLsbD j) : r = r' :=
  BitVec.eq_of_getLsbD_eq h

theorem eq_not_of_bits {r v : Byte} (h : ∀ j < 8, r.getLsbD j = !v.getLsbD j) : ~~~v = r :=
  eq_of_getLsbD8 fun j hj => by rw [h j hj, BitVec.getLsbD_not, decide_eq_true hj, Bool.true_and]

theorem eq_clearBit_of_bits {r v : Byte} {n : BitVec 3}
    (h : ∀ j < 8, r.getLsbD j = if j = n.toNat then false else v.getLsbD j) : v &&& ~~~bitMask n = r :=
  eq_of_getLsbD8 fun j hj => by
    rw [h j hj, BitVec.getLsbD_and, BitVec.getLsbD_not, getLsbD_bitMask n hj]
    split <;> simp_all

theorem eq_setBit_of_bits {r v : Byte} {n : BitVec 3}
    (h : ∀ j < 8, r.getLsbD j = if j = n.toNat then true else v.getLsbD j) : v ||| bitMask n = r :=
  eq_of_getLsbD8 fun j hj => by
    rw [h j hj, BitVec.getLsbD_or, getLsbD_bitMask n hj]
    split <;> simp_all

/-- Settles O34: in each case the bits of `r`, or its sum with `v`, make it the result. -/
theorem complementNegateAndBitWrites : Obligations.ComplementNegateAndBitWrites := by
  intro x s v r n i h hi
  have hrmw (f : Byte → Byte) (hr : f v = r) :
      ∃ t, rmw x s f (fun v u => u.putStatus (u.dk.sn8 (f v))) = .next t ∧
        t.operandOf s x = .ok r ∧ t.sk = s.skAfter x ∧
        t.dk = { s.dk with s := decide (r = 0), n := r.getLsbD 7 } := by
    rw [← Status.sn8_eq_getLsbD, ← hr]
    exact rmw_putStatus_ok h f fun v dk => dk.sn8 (f v)
  rcases hi with ⟨rfl, hr⟩ | ⟨rfl, hr⟩ | ⟨rfl, hr⟩ | ⟨rfl, hr⟩
  · exact hrmw (fun v => ~~~v) (eq_not_of_bits hr)
  · exact hrmw (fun v => 0 - v) (by rw [← hr, add_sub_cancel_right])
  · exact hrmw (fun v => v &&& ~~~bitMask n) (eq_clearBit_of_bits hr)
  · exact hrmw (fun v => v ||| bitMask n) (eq_setBit_of_bits hr)

/-! ### Shifts and rotates (rules R290 to R295) -/

theorem getLsbD_shiftLeft (v : Byte) (c : Bool) {j : Nat} (hj : j < 8) :
    (shiftLeft v c).getLsbD j = if j = 0 then c else v.getLsbD (j - 1) := by
  rw [shiftLeft, BitVec.getLsbD_append, BitVec.getLsbD_extractLsb']
  match j with
  | 0 => simp
  | j + 1 => simp [show j < 7 by omega]

theorem getLsbD_shiftRight (v : Byte) (c : Bool) {j : Nat} (hj : j < 8) :
    (shiftRight v c).getLsbD j = if j = 7 then c else v.getLsbD (j + 1) := by
  rw [shiftRight, BitVec.getLsbD_append, BitVec.getLsbD_extractLsb']
  by_cases h7 : j = 7
  · simp [h7]
  · simp [h7, show j < 7 by omega, Nat.add_comm]

theorem eq_shiftLeft_of_bits {r v : Byte} {c : Bool}
    (h : ∀ j < 7, r.getLsbD (j + 1) = v.getLsbD j) (hc : r.getLsbD 0 = c) : shiftLeft v c = r :=
  eq_of_getLsbD8 fun j hj => by
    rw [getLsbD_shiftLeft v c hj]
    match j with
    | 0 => exact hc.symm
    | j + 1 => exact (h j (by omega)).symm

theorem eq_shiftRight_of_bits {r v : Byte} {c : Bool}
    (h : ∀ j < 7, r.getLsbD j = v.getLsbD (j + 1)) (hc : r.getLsbD 7 = c) : shiftRight v c = r :=
  eq_of_getLsbD8 fun j hj => by
    rw [getLsbD_shiftRight v c hj]
    split
    next h7 => rw [h7, hc]
    next h7 => exact (h j (by omega)).symm

/-- DK after a shift with result `r`: E the bit shifted out, T and Y drawn. -/
theorem Machine.State.dk_putShift (u : State) (out : Bool) (r : Byte) :
    (u.putShift out r).dk =
      { e := out, s := decide (r = 0), n := r.getLsbD 7, k := u.dk.k
        t := Config.unspecifiedBit u.draws, y := Config.unspecifiedBit (u.draws + 1) } := by
  simp only [State.putShift, State.drawFlag_dk, State.drawFlag_draws, State.putStatus_dk,
    State.putStatus_draws, Status.put_t, Status.put_y, Status.sn8_eq_getLsbD]

/-- A read-modify-write whose flag update is that of a shift. -/
theorem rmw_putShift_ok {x : Operand8} {s : State} {v : Byte} (h : s.operandOf s x = .ok v)
    (f : Byte → Byte) (out : Byte → Bool) :
    ∃ t, rmw x s f (fun v u => u.putShift (out v) (f v)) = .next t ∧ t.operandOf s x = .ok (f v) ∧
      t.sk = s.skAfter x ∧ t.dk = (s.putShift (out v) (f v)).dk :=
  rmw_ok h f (fun _ => by simp [State.putShift]) (fun _ _ => by simp [State.putShift])
    (fun _ => by simp [State.putShift])
    (fun _ hdk hdraws => by rw [State.dk_putShift, State.dk_putShift, hdk, hdraws])

/-- Settles O46: the bits of `r` make it the shifted operand. -/
theorem shiftsAndRotatesMoveOneBit : Obligations.ShiftsAndRotatesMoveOneBit := by
  intro x s v r i out h hi
  have hrmw (f : Byte → Byte) (g : Byte → Bool) (hr : f v = r) (hout : g v = out) :
      ∃ t, rmw x s f (fun v u => u.putShift (g v) (f v)) = .next t ∧
        t.operandOf s x = .ok r ∧ t.sk = s.skAfter x ∧
        t.dk = { e := out, s := decide (r = 0), n := r.getLsbD 7, k := s.dk.k
                 t := Config.unspecifiedBit s.draws, y := Config.unspecifiedBit (s.draws + 1) } := by
    rw [← State.dk_putShift, ← hr, ← hout]
    exact rmw_putShift_ok h f g
  rcases hi with ⟨hout, hbits, hi⟩ | ⟨hout, hbits, hi⟩
  · have hmsb : v.msb = out := (BitVec.msb_eq_getLsbD_last v).trans hout.symm
    rcases hi with ⟨rfl, hin⟩ | ⟨rfl, hin⟩
    · exact hrmw (fun v => shiftLeft v false) BitVec.msb (eq_shiftLeft_of_bits hbits hin) hmsb
    · exact hrmw (fun v => shiftLeft v s.dk.e) BitVec.msb (eq_shiftLeft_of_bits hbits hin) hmsb
  · rcases hi with ⟨rfl, hin⟩ | ⟨rfl, hin⟩ | ⟨rfl, hin⟩
    · exact hrmw (fun v => shiftRight v false) (·.getLsbD 0) (eq_shiftRight_of_bits hbits hin) hout.symm
    · exact hrmw (fun v => shiftRight v v.msb) (·.getLsbD 0)
        (eq_shiftRight_of_bits hbits (hin.trans (BitVec.msb_eq_getLsbD_last v).symm)) hout.symm
    · exact hrmw (fun v => shiftRight v s.dk.e) (·.getLsbD 0) (eq_shiftRight_of_bits hbits hin) hout.symm

/-! ### Operation instructions on flags and accumulators (rules R260, R264 to R268) -/

/-- Settles O35. -/
theorem clearFlag : Obligations.ClearFlag := fun f s =>
  ⟨s.putFlag f false, rfl, State.flag_putFlag_self s f false,
    fun _ hg => State.flag_putFlag_of_ne s false hg, rfl, Status.put_k s.dk f false⟩

/-- Settles O38. -/
theorem decimalAdjust : Obligations.DecimalAdjust := fun _ _ =>
  ⟨_, rfl, (State.reg8_putStatus _ _ _).trans (State.reg8_setReg8_self _ _ _), rfl⟩

/-- Settles O40. -/
theorem interruptEnableAndDisable : Obligations.InterruptEnableAndDisable := fun _ => ⟨rfl, rfl⟩

theorem exec_psh (k : Acc) (s : State) :
    exec (.psh k) s = .next ((s.setReg16 .yg (s.yg - 1)).poke (s.yg - 1) (s.reg8 (accReg k))) := rfl

/-- Settles O39. -/
theorem pushAndPull : Obligations.PushAndPull := by
  intro d s
  refine ⟨⟨_, exec_psh d s, rfl, State.read8_poke_same _ _ _, rfl⟩, fun v hv =>
    ⟨_, (exec_pul_next_iff d s _).2 ⟨v, hv, rfl⟩, ?_, by simp, Status.sn8_eq s.dk v⟩⟩
  simp [State.setReg16]

end Sys2Proof
end


section
/-! Calls, returns and interrupts (44_operation_instructions section 4, 47_jump_branch sections 4 and 5,
60_exceptions sections 2 and 3). -/

namespace Sys2Proof

open Machine

/-! ### Returns (rules R270, R271) -/

/-- The pair at an address, from its two bytes. -/
theorem Machine.State.read16_of_bytes {s : State} {a : Word} {h l : Byte} (hh : s.read8 a = .ok h)
    (hl : s.read8 (a + 1) = .ok l) : s.read16 a = .ok (h ++ l) := by
  rw [State.read16_ok_iff, hi8_append, lo8_append]
  exact ⟨hh, hl⟩

/-- Settles O42. -/
theorem returnFromSubroutine : Obligations.ReturnFromSubroutine := fun s h l hh hl =>
  (exec_rts_next_iff s _).2 ⟨h ++ l, State.read16_of_bytes hh hl, rfl⟩

/-- Settles O43. -/
theorem returnFromInterrupt : Obligations.ReturnFromInterrupt := fun s v h l hv hh hl => by
  have hl' : s.read8 (s.yg + 1 + 1) = .ok l := by
    rw [show s.yg + 1 + 1 = s.yg + 2 by bv_omega, hl]
  exact (exec_rti_next_iff s _).2 ⟨v, h ++ l, hv, State.read16_of_bytes hh hl', rfl⟩

/-! ### Calls (rules R348 to R351) -/

/-- The two bytes that a call stacks, high byte at the lower address. -/
theorem Machine.State.read8_called_frame (s : State) (target : Word) :
    (s.called target).read8 (s.yg - 2) = .ok (hi8 s.ps) ∧
      (s.called target).read8 (s.yg - 1) = .ok (lo8 s.ps) := by
  have hne : s.yg - 1 ≠ s.yg - 2 := by bv_omega
  refine ⟨?_, ?_⟩
  · rw [State.read8_called, if_pos rfl]
  · rw [State.read8_called, if_neg hne, if_pos rfl]

/-- What a call does, as the statements about calls say it. -/
theorem Machine.State.called_spec (s : State) (target : Word) :
    ∃ h l, (s.called target).ps = target ∧ (s.called target).yg = s.yg - 2 ∧ s.ps = h ++ l ∧
      (s.called target).read8 (s.yg - 2) = .ok h ∧ (s.called target).read8 (s.yg - 1) = .ok l ∧
      (s.called target).dk = s.dk := by
  obtain ⟨hh, hl⟩ := s.read8_called_frame target
  exact ⟨hi8 s.ps, lo8 s.ps, State.called_ps s target, State.called_yg s target,
    (hi8_append_lo8 s.ps).symm, hh, hl, State.called_dk s target⟩

/-- Settles O55. -/
theorem subroutineCalls : Obligations.SubroutineCalls := by
  intro p adr target s i hi
  have hexec : exec i s = .next (s.called target) := by
    rcases hi with ⟨rfl, rfl⟩ | ⟨rfl, rfl⟩
    · rw [exec_bsr, State.relTarget_eq]
    · exact exec_jsr target s
  obtain ⟨h, l, hspec⟩ := s.called_spec target
  exact ⟨_, h, l, hexec, hspec⟩

/-- BSC calls when its flag is 1 and changes nothing when it is 0. -/
theorem exec_bsc {f : Flag} {p : Byte} {adr target : Word} {s : State} {i : Instr}
    (hi : (i = .bscRel f p ∧ target = BitVec.ofInt 16 (s.ps.toNat + p.toInt)) ∨
      (i = .bscAbs f adr ∧ target = adr)) :
    exec i s = .next (if s.flag f = true then s.called target else s) := by
  rcases hi with ⟨rfl, rfl⟩ | ⟨rfl, rfl⟩
  · rw [exec_bscRel, State.relTarget_eq]
  · exact exec_bscAbs f target s

/-- Settles O56. -/
theorem conditionalCalls : Obligations.ConditionalCalls := by
  intro f p adr target s i hi
  have hexec := exec_bsc hi
  refine ⟨fun hf => ?skips, fun hf => ?calls⟩
  case skips => rw [hexec, if_neg (by simp [hf])]
  case calls =>
    obtain ⟨h, l, hspec⟩ := s.called_spec target
    exact ⟨_, h, l, by rw [hexec, if_pos hf], hspec⟩

/-- RTS in a later state with YG and the stacked bytes of a call. -/
theorem exec_rts_after_call {s u : State} {target : Word} (hyg : u.yg = (s.called target).yg)
    (hbytes : ∀ a ∈ [(s.called target).yg, (s.called target).yg + 1],
      u.read8 a = (s.called target).read8 a) :
    exec .rts u = .next { u with ps := s.ps, yg := s.yg } := by
  obtain ⟨hh, hl⟩ := s.read8_called_frame target
  rw [State.called_yg] at hyg hbytes
  have hadr : s.yg - 2 + 1 = s.yg - 1 := by bv_omega
  have hback : s.yg - 2 + 2 = s.yg := by bv_omega
  have huh : u.read8 u.yg = .ok (hi8 s.ps) := by
    rw [hyg, hbytes _ (by simp), hh]
  have hul : u.read8 (u.yg + 1) = .ok (lo8 s.ps) := by
    rw [hyg, hbytes _ (by simp), hadr, hl]
  rw [returnFromSubroutine u _ _ huh hul, hi8_append_lo8, hyg, hback]

/-- Settles O57: each call answers a `called` state. -/
theorem returnUndoesCall : Obligations.ReturnUndoesCall := by
  intro f p adr s i hi
  obtain ⟨target, hexec⟩ : ∃ target, exec i s = .next (s.called target) := by
    rcases hi with hi | ⟨hi, hf⟩
    · simp only [List.mem_cons, List.not_mem_nil, or_false] at hi
      rcases hi with rfl | rfl
      · exact ⟨_, exec_bsr p s⟩
      · exact ⟨_, exec_jsr adr s⟩
    · simp only [List.mem_cons, List.not_mem_nil, or_false] at hi
      rcases hi with rfl | rfl
      · exact ⟨_, (exec_bscRel f p s).trans (by rw [if_pos hf])⟩
      · exact ⟨_, (exec_bscAbs f adr s).trans (by rw [if_pos hf])⟩
  exact ⟨_, hexec, fun u hyg hbytes => exec_rts_after_call hyg hbytes⟩

/-! ### DBNZ (rules R352, R353) -/

/-- The branch is taken unless the value before the decrement was 1. -/
theorem sub_one_bne_zero (v : Byte) : (v - 1 != 0) = !decide (v = 1) := by
  revert v
  decide

theorem Machine.State.branchIf_dec_ps (s : State) (v p : Byte) :
    (s.branchIf (v - 1 != 0) p).ps =
      if v = 1 then s.ps else BitVec.ofInt 16 (s.ps.toNat + p.toInt) := by
  rw [State.branchIf_eq_ofInt, sub_one_bne_zero]
  by_cases hv : v = 1 <;> simp [hv]

/-- Settles O58. -/
theorem decrementAndBranch : Obligations.DecrementAndBranch := by
  refine ⟨fun k p s => ?reg, fun adr p v s hv => ?mem⟩
  case reg =>
    refine ⟨(s.setReg8 k (s.reg8 k - 1)).branchIf (s.reg8 k - 1 != 0) p, rfl, ?_, by simp, ?_⟩
    · rw [State.branchIf_eq, State.reg8_jump, State.reg8_setReg8_self]
    · rw [State.branchIf_dec_ps, State.setReg8_ps]
  case mem =>
    refine ⟨_, (exec_dbnzMem_next_iff p adr s _).2 ⟨v, hv, rfl⟩, ?_, by simp, ?_⟩
    · rw [State.read8_congr (State.branchIf_mem _ _ _), State.read8_poke_same]
    · rw [State.branchIf_dec_ps, State.poke_ps]

/-! ### The trap frame (rules R384, R386, R388) -/

/-- The three bytes of the frame: DK at the new YG, then the return address, high byte first. -/
theorem Machine.State.read8_trapped_frame (s : State) (ret entry : Word) :
    (s.trapped ret entry).read8 (s.yg - 3) = .ok (dkByte s.dk) ∧
      (s.trapped ret entry).read8 (s.yg - 3 + 1) = .ok (hi8 ret) ∧
      (s.trapped ret entry).read8 (s.yg - 3 + 2) = .ok (lo8 ret) := by
  have h1 : s.yg - 3 + 1 = s.yg - 2 := by bv_omega
  have h2 : s.yg - 3 + 2 = s.yg - 1 := by bv_omega
  have h23 : s.yg - 2 ≠ s.yg - 3 := by bv_omega
  have h13 : s.yg - 1 ≠ s.yg - 3 := by bv_omega
  have h12 : s.yg - 1 ≠ s.yg - 2 := by bv_omega
  refine ⟨?_, ?_, ?_⟩
  · rw [State.read8_trapped, if_pos rfl]
  · rw [h1, State.read8_trapped, if_neg h23, if_pos rfl]
  · rw [h2, State.read8_trapped, if_neg h13, if_neg h12, if_pos rfl]

/-- Bits 6 and 7 of the DK byte are 0 (rule R28). -/
theorem dkByte_lt (dk : Status) : dkByte dk < 64 := by
  obtain ⟨e, y, s, n, t, k⟩ := dk
  revert e y s n t k
  decide

/-- What a trap entry does, as the statements about INT and about an interrupt say it. -/
theorem Machine.State.trapped_spec (s : State) (ret entry : Word) :
    ∃ v h l, (s.trapped ret entry).ps = entry ∧ (s.trapped ret entry).yg = s.yg - 3 ∧
      (s.trapped ret entry).dk = { s.dk with k := false } ∧
      (s.trapped ret entry).read8 (s.trapped ret entry).yg = .ok v ∧
      (s.trapped ret entry).read8 ((s.trapped ret entry).yg + 1) = .ok h ∧
      (s.trapped ret entry).read8 ((s.trapped ret entry).yg + 2) = .ok l ∧
      ret = h ++ l ∧ v < 64 ∧
      s.dk = { e := v.getLsbD 0, y := v.getLsbD 1, n := v.getLsbD 2, s := v.getLsbD 3,
               t := v.getLsbD 4, k := v.getLsbD 5 } ∧
      (∀ k, (s.trapped ret entry).reg8 k = s.reg8 k) ∧ (s.trapped ret entry).sk = s.sk := by
  obtain ⟨hv, hh, hl⟩ := s.read8_trapped_frame ret entry
  rw [← State.trapped_yg s ret entry] at hv hh hl
  exact ⟨dkByte s.dk, hi8 ret, lo8 ret, State.trapped_ps s ret entry, State.trapped_yg s ret entry,
    State.trapped_dk s ret entry, hv, hh, hl, (hi8_append_lo8 ret).symm, dkByte_lt s.dk,
    (dkOfByte_dkByte s.dk).symm, State.reg8_trapped s ret entry, State.trapped_sk s ret entry⟩

/-- Settles O44. -/
theorem softwareInterruptEntry : Obligations.SoftwareInterruptEntry := by
  intro s
  obtain ⟨v, h, l, hspec⟩ := s.trapped_spec s.ps Config.intEntry
  exact ⟨_, v, h, l, exec_int s, hspec⟩

/-- Settles O45: RTI reads the frame that the trap entry wrote. -/
theorem interruptThenReturnRestores : Obligations.InterruptThenReturnRestores := by
  intro s
  refine ⟨_, exec_int s, fun u hyg hbytes => ?_⟩
  obtain ⟨hv, hh, hl⟩ := s.read8_trapped_frame s.ps Config.intEntry
  rw [State.trapped_yg] at hyg hbytes
  have hback : s.yg - 3 + 3 = s.yg := by bv_omega
  have huv : u.read8 u.yg = .ok (dkByte s.dk) := by rw [hyg, hbytes _ (by simp), hv]
  have huh : u.read8 (u.yg + 1) = .ok (hi8 s.ps) := by rw [hyg, hbytes _ (by simp), hh]
  have hul : u.read8 (u.yg + 2) = .ok (lo8 s.ps) := by rw [hyg, hbytes _ (by simp), hl]
  have hdk : (dkOfByte (dkByte s.dk)) = s.dk := dkOfByte_dkByte s.dk
  rw [returnFromInterrupt u _ _ _ huv huh hul, hi8_append_lo8, hyg, hback]
  exact congrArg (fun dk => Host.Outcome.next { u with ps := s.ps, dk := dk, yg := s.yg }) hdk

/-! ### Interrupts (rules R383, R384) -/

/-- Settles O59: the poll keeps K and a pending request, and no instruction clears the request
(`exec_within`). -/
theorem maskedRequestWaits : Obligations.MaskedRequestWaits := by
  intro s hk
  have hirq : s.pollIrq.irqAccepted = false := State.not_irqAccepted_of_masked hk
  refine ⟨hirq, fun hpending t h => ?_⟩
  obtain ⟨haccepted, -⟩ | ⟨i, n, -, -, hexec⟩ := step_next_cases h
  · rw [hirq] at haccepted
    cases haccepted
  · rw [(exec_within hexec).irqPending, State.advance_irqPending, State.pollIrq, hpending, Bool.true_or]

/-- With K enabling and a request pending, acceptance is decided by the presence of a source. -/
theorem Machine.State.irqAccepted_pollIrq {s : State} (hk : s.dk.k = true) (hp : s.irqPending = true) :
    s.pollIrq.irqAccepted = Config.irqPresent := by
  simp [State.irqAccepted, State.irqEnabled, State.pollIrq, hk, hp, kEnabling, kOneEnables]

/-- Settles O60: the acceptance is a trap entry with PS as the return address (`trapped_spec`), which
stores to the frame only. -/
theorem pendingRequestIsAccepted : Obligations.PendingRequestIsAccepted := by
  intro s hk hp
  have hirq := State.irqAccepted_pollIrq hk hp
  cases hpresent : Config.irqPresent with
  | false => exact .inr ⟨rfl, hirq.trans hpresent⟩
  | true =>
    obtain ⟨v, h, l, hps, hyg, hdk, hv, hh, hl, hret, hlt, hbits, hreg, hsk⟩ :=
      State.trapped_spec { s.pollIrq with irqPending := false } s.ps Config.irqEntry
    refine .inl ⟨rfl, s.accepted, v, h, l, step_of_accepted (hirq.trans hpresent), ?_, hps, hyg, hdk,
      hv, hh, hl, hret, hlt, hbits, fun k => (hreg k).trans ?_, hsk, fun a ha => ?_⟩
    · exact State.trapped_irqPending _ _ _
    · cases k <;> rfl
    · exact (within_trapped _ _ _).bytes a ha

end Sys2Proof
end
